-- ==== Sys2Proof/Word.lean ====
section
/-! DEFINITION. The word types of the core (spec/00_scope.md R5): 32-bit registers and addresses, 8-bit memory cells,
sixteen register numbers. -/

namespace Sys2Proof

/-- A 32-bit value: a register, an address or an instruction word (R5, R8). -/
abbrev Word := BitVec 32

/-- A memory cell (R5). -/
abbrev Byte := BitVec 8

/-- A register number. It comes from a 4-bit field, so every encodable number names a register (spec/10_state.md R20). -/
abbrev RegNo := Fin 16

end Sys2Proof
end

