-- ==== Sys2Proof/Syntax.lean ====
section
/-! DEFINITION. The instructions, one constructor per row of spec/opcode_table.json (58 rows), in the table's order.
A constructor keeps EVERY bit of its word, the ignored ones too (spec/30_encoding.md R103), so that the encoder of
Sys2Proof/Decode.lean is the exact inverse of the decoder (log entry 12). -/

namespace Sys2Proof

/-- The sixteen values of the condition field, under the names of spec/30_encoding.md R102. Only eq, mi, pl, ge, lt,
gt and le test a flag; every other code always passes (spec/40_step_and_condition.md R133). -/
inductive Cond where
  | eq | ne | cs | cc | mi | pl | vs | vc | hi | ls | ge | lt | gt | le | al | nv
deriving DecidableEq, Repr

/-- The kind of a register shift: logical left or logical right, and no other (spec/30_encoding.md R94). -/
inductive ShiftKind where
  | lsl | lsr
deriving DecidableEq, Repr

/-- The six families of the classifier (spec/30_encoding.md R86). -/
inductive Family where
  | dataProcessing | multiply | branch | loadStore | softwareInterrupt | unknown
deriving DecidableEq, Repr

/-- The three addressing variants of a load or store (spec/45_load_store.md R245). -/
inductive AddrMode where
  | offset | preIndexed | postIndexed
deriving DecidableEq, Repr

/-- The instructions. Field names are those of spec/30_encoding.md R91 to R101; `upd` is the update-flags bit S, `up`
the direction bit U, `kind` the shift kind; `ign`, `b22` and the `rest`, `hi`, `lo`, `low` fields hold bits that
no rule examines (R103). -/
inductive Instr where
  /-- Row MUL (R97, R211). `ign` is bits 25:22, `rn` bits 15:12; both are ignored. -/
  | mul (cond : Cond) (ign : BitVec 4) (upd : Bool) (rd rn rs rm : RegNo)
  /-- Row MLA (R97, R212). `ign` is bits 25:22, ignored. -/
  | mla (cond : Cond) (ign : BitVec 4) (upd : Bool) (rd rn rs rm : RegNo)
  /-- Row DP_RESERVED_SHIFT_KIND (R96 a): I = 0 and bit 6 = 1. `hi` is bits 24:7, `lo` bits 5:0. -/
  | dpReservedShiftKind (cond : Cond) (hi : BitVec 18) (lo : BitVec 6)
  /-- Row DP_RESERVED_BIT7 (R96 b): I = 0 and bits 7:4 = 1011. `hi` is bits 24:8, `lo` bits 3:0. -/
  | dpReservedBit7 (cond : Cond) (hi : BitVec 17) (lo : BitVec 4)
  /-- Row AND, immediate operand (R93, R176). -/
  | andImm (cond : Cond) (upd : Bool) (rn rd : RegNo) (rotate : BitVec 4) (imm8 : BitVec 8)
  /-- Row AND, register shifted by an immediate amount (R94, R176). -/
  | andShiftImm (cond : Cond) (upd : Bool) (rn rd : RegNo) (shamt : BitVec 5) (kind : ShiftKind) (rm : RegNo)
  /-- Row AND, register shifted by the low byte of a register (R95, R176). -/
  | andShiftReg (cond : Cond) (upd : Bool) (rn rd rs : RegNo) (kind : ShiftKind) (rm : RegNo)
  /-- Row EOR, immediate operand (R93, R177). -/
  | eorImm (cond : Cond) (upd : Bool) (rn rd : RegNo) (rotate : BitVec 4) (imm8 : BitVec 8)
  /-- Row EOR, register shifted by an immediate amount (R94, R177). -/
  | eorShiftImm (cond : Cond) (upd : Bool) (rn rd : RegNo) (shamt : BitVec 5) (kind : ShiftKind) (rm : RegNo)
  /-- Row EOR, register shifted by the low byte of a register (R95, R177). -/
  | eorShiftReg (cond : Cond) (upd : Bool) (rn rd rs : RegNo) (kind : ShiftKind) (rm : RegNo)
  /-- Row SUB, immediate operand (R93, R178). -/
  | subImm (cond : Cond) (upd : Bool) (rn rd : RegNo) (rotate : BitVec 4) (imm8 : BitVec 8)
  /-- Row SUB, register shifted by an immediate amount (R94, R178). -/
  | subShiftImm (cond : Cond) (upd : Bool) (rn rd : RegNo) (shamt : BitVec 5) (kind : ShiftKind) (rm : RegNo)
  /-- Row SUB, register shifted by the low byte of a register (R95, R178). -/
  | subShiftReg (cond : Cond) (upd : Bool) (rn rd rs : RegNo) (kind : ShiftKind) (rm : RegNo)
  /-- Row ADD, immediate operand (R93, R179). -/
  | addImm (cond : Cond) (upd : Bool) (rn rd : RegNo) (rotate : BitVec 4) (imm8 : BitVec 8)
  /-- Row ADD, register shifted by an immediate amount (R94, R179). -/
  | addShiftImm (cond : Cond) (upd : Bool) (rn rd : RegNo) (shamt : BitVec 5) (kind : ShiftKind) (rm : RegNo)
  /-- Row ADD, register shifted by the low byte of a register (R95, R179). -/
  | addShiftReg (cond : Cond) (upd : Bool) (rn rd rs : RegNo) (kind : ShiftKind) (rm : RegNo)
  /-- Row CMP, immediate operand (R93, R180). -/
  | cmpImm (cond : Cond) (upd : Bool) (rn rd : RegNo) (rotate : BitVec 4) (imm8 : BitVec 8)
  /-- Row CMP, register shifted by an immediate amount (R94, R180). -/
  | cmpShiftImm (cond : Cond) (upd : Bool) (rn rd : RegNo) (shamt : BitVec 5) (kind : ShiftKind) (rm : RegNo)
  /-- Row CMP, register shifted by the low byte of a register (R95, R180). -/
  | cmpShiftReg (cond : Cond) (upd : Bool) (rn rd rs : RegNo) (kind : ShiftKind) (rm : RegNo)
  /-- Row ORR, immediate operand (R93, R181). -/
  | orrImm (cond : Cond) (upd : Bool) (rn rd : RegNo) (rotate : BitVec 4) (imm8 : BitVec 8)
  /-- Row ORR, register shifted by an immediate amount (R94, R181). -/
  | orrShiftImm (cond : Cond) (upd : Bool) (rn rd : RegNo) (shamt : BitVec 5) (kind : ShiftKind) (rm : RegNo)
  /-- Row ORR, register shifted by the low byte of a register (R95, R181). -/
  | orrShiftReg (cond : Cond) (upd : Bool) (rn rd rs : RegNo) (kind : ShiftKind) (rm : RegNo)
  /-- Row MOV, immediate operand (R93, R182). -/
  | movImm (cond : Cond) (upd : Bool) (rn rd : RegNo) (rotate : BitVec 4) (imm8 : BitVec 8)
  /-- Row MOV, register shifted by an immediate amount (R94, R182). -/
  | movShiftImm (cond : Cond) (upd : Bool) (rn rd : RegNo) (shamt : BitVec 5) (kind : ShiftKind) (rm : RegNo)
  /-- Row MOV, register shifted by the low byte of a register (R95, R182). -/
  | movShiftReg (cond : Cond) (upd : Bool) (rn rd rs : RegNo) (kind : ShiftKind) (rm : RegNo)
  /-- Row BIC, immediate operand (R93, R183). -/
  | bicImm (cond : Cond) (upd : Bool) (rn rd : RegNo) (rotate : BitVec 4) (imm8 : BitVec 8)
  /-- Row BIC, register shifted by an immediate amount (R94, R183). -/
  | bicShiftImm (cond : Cond) (upd : Bool) (rn rd : RegNo) (shamt : BitVec 5) (kind : ShiftKind) (rm : RegNo)
  /-- Row BIC, register shifted by the low byte of a register (R95, R183). -/
  | bicShiftReg (cond : Cond) (upd : Bool) (rn rd rs : RegNo) (kind : ShiftKind) (rm : RegNo)
  /-- Row UNDEFINED_OPCODE_0011 (R92, R271). `imm` is bit 25, `rest` bits 20:0. -/
  | undef0011 (cond : Cond) (imm : Bool) (rest : BitVec 21)
  /-- Row UNDEFINED_OPCODE_0101 (R92, R271). `imm` is bit 25, `rest` bits 20:0. -/
  | undef0101 (cond : Cond) (imm : Bool) (rest : BitVec 21)
  /-- Row UNDEFINED_OPCODE_0110 (R92, R271). `imm` is bit 25, `rest` bits 20:0. -/
  | undef0110 (cond : Cond) (imm : Bool) (rest : BitVec 21)
  /-- Row UNDEFINED_OPCODE_0111 (R92, R271). `imm` is bit 25, `rest` bits 20:0. -/
  | undef0111 (cond : Cond) (imm : Bool) (rest : BitVec 21)
  /-- Row UNDEFINED_OPCODE_1000 (R92, R271). `imm` is bit 25, `rest` bits 20:0. -/
  | undef1000 (cond : Cond) (imm : Bool) (rest : BitVec 21)
  /-- Row UNDEFINED_OPCODE_1001 (R92, R271). `imm` is bit 25, `rest` bits 20:0. -/
  | undef1001 (cond : Cond) (imm : Bool) (rest : BitVec 21)
  /-- Row UNDEFINED_OPCODE_1011 (R92, R271). `imm` is bit 25, `rest` bits 20:0. -/
  | undef1011 (cond : Cond) (imm : Bool) (rest : BitVec 21)
  /-- Row UNDEFINED_OPCODE_1111 (R92, R271). `imm` is bit 25, `rest` bits 20:0. -/
  | undef1111 (cond : Cond) (imm : Bool) (rest : BitVec 21)
  /-- Row LS_RESERVED_P0_W1 (R100 a, R237): P = 0 and W = 1. `imm` is bit 25, `hi` bits 23:22, `lo` bits 20:0. -/
  | lsReservedP0W1 (cond : Cond) (imm : Bool) (hi : BitVec 2) (lo : BitVec 21)
  /-- Row LDR, immediate offset, offset (R238, R231, R234). `b22` is ignored (R242). -/
  | ldrImmOffset (cond : Cond) (up b22 : Bool) (rn rd : RegNo) (imm12 : BitVec 12)
  /-- Row LDR, immediate offset, pre-indexed (R238, R231, R235). `b22` is ignored (R242). -/
  | ldrImmPre (cond : Cond) (up b22 : Bool) (rn rd : RegNo) (imm12 : BitVec 12)
  /-- Row LDR, immediate offset, post-indexed (R238, R231, R236). `b22` is ignored (R242). -/
  | ldrImmPost (cond : Cond) (up b22 : Bool) (rn rd : RegNo) (imm12 : BitVec 12)
  /-- Row LDR, register offset, offset (R238, R232, R234). `b22` is ignored (R242). -/
  | ldrRegOffset (cond : Cond) (up b22 : Bool) (rn rd : RegNo) (rm : RegNo)
  /-- Row LDR, register offset, pre-indexed (R238, R232, R235). `b22` is ignored (R242). -/
  | ldrRegPre (cond : Cond) (up b22 : Bool) (rn rd : RegNo) (rm : RegNo)
  /-- Row LDR, register offset, post-indexed (R238, R232, R236). `b22` is ignored (R242). -/
  | ldrRegPost (cond : Cond) (up b22 : Bool) (rn rd : RegNo) (rm : RegNo)
  /-- Row STR, immediate offset, offset (R239, R231, R234). `b22` is ignored (R242). -/
  | strImmOffset (cond : Cond) (up b22 : Bool) (rn rd : RegNo) (imm12 : BitVec 12)
  /-- Row STR, immediate offset, pre-indexed (R239, R231, R235). `b22` is ignored (R242). -/
  | strImmPre (cond : Cond) (up b22 : Bool) (rn rd : RegNo) (imm12 : BitVec 12)
  /-- Row STR, immediate offset, post-indexed (R239, R231, R236). `b22` is ignored (R242). -/
  | strImmPost (cond : Cond) (up b22 : Bool) (rn rd : RegNo) (imm12 : BitVec 12)
  /-- Row STR, register offset, offset (R239, R232, R234). `b22` is ignored (R242). -/
  | strRegOffset (cond : Cond) (up b22 : Bool) (rn rd : RegNo) (rm : RegNo)
  /-- Row STR, register offset, pre-indexed (R239, R232, R235). `b22` is ignored (R242). -/
  | strRegPre (cond : Cond) (up b22 : Bool) (rn rd : RegNo) (rm : RegNo)
  /-- Row STR, register offset, post-indexed (R239, R232, R236). `b22` is ignored (R242). -/
  | strRegPost (cond : Cond) (up b22 : Bool) (rn rd : RegNo) (rm : RegNo)
  /-- Row LS_RESERVED_SHIFTED_OFFSET (R100 b, R233): I = 1 and bits 11:4 not zero. `rest` is bits 24:0. -/
  | lsReservedShiftedOffset (cond : Cond) (rest : BitVec 25)
  /-- Row B (R98, R221). -/
  | b (cond : Cond) (imm24 : BitVec 24)
  /-- Row BL (R98, R222). -/
  | bl (cond : Cond) (imm24 : BitVec 24)
  /-- Row UNKNOWN_SEL10 (R88, R270): bits 27:25 = 100. `top` is bits 31:28, not evaluated; `rest` is bits 24:0. -/
  | unknownSel10 (top : BitVec 4) (rest : BitVec 25)
  /-- Row SWI_HALT (R101, R261): service 0. -/
  | swiHalt (cond : Cond)
  /-- Row SWI_DUMP_REGISTERS (R101, R262): service 1. -/
  | swiDumpRegisters (cond : Cond)
  /-- Row SWI_PRINT_R0 (R101, R263): service 2. -/
  | swiPrintR0 (cond : Cond)
  /-- Row SWI_OTHER (R101, R264): every other service. -/
  | swiOther (cond : Cond) (service : BitVec 24)
  /-- Row UNKNOWN_SEL11 (R89, R270): bits 27:26 = 11, `sub` (bits 25:24) not 11. `top` is bits 31:28, not evaluated;
  `rest` is bits 23:0. -/
  | unknownSel11 (top : BitVec 4) (sub : BitVec 2) (rest : BitVec 24)
deriving DecidableEq, Repr

end Sys2Proof
end

