-- ==== Sys2Proof/WellFormed.lean ====
section
/-! DEFINITION. Two checks on an instruction as a term.
`Instr.wellFormed`: its fields are ones the decoder can read from a word of its row (the rows overlap, so a few field
values belong to another row: spec/30_encoding.md R87, R105).
`Instr.admitted`: it is not one of the encodings the spec reserves (spec/00_scope.md R12). -/

namespace Sys2Proof

/-- A DataProcessing immediate whose high nibble is 9 spells a Multiply word (R87 a, R93). -/
def immNotMultiply (imm8 : BitVec 8) : Bool := imm8.extractLsb' 4 4 != 0b1001#4

/-- The unexamined bits 20:0 of an undefined-opcode word with I bit `imm`: bits 7:4 must not be the multiply marker
(R86), and with I = 0 they must not be a reserved operand encoding (R96, R105). -/
def undefNotOtherRow (imm : Bool) (rest : BitVec 21) : Bool :=
  rest.extractLsb' 4 4 != 0b1001#4 && (imm || (rest.extractLsb' 6 1 == 0#1 && rest.extractLsb' 4 4 != 0b1011#4))

/-- The low 25 bits of an LS_RESERVED_SHIFTED_OFFSET word: bits 11:4 are not zero (R100 b), and it is not a
P = 0, W = 1 word, whose row comes first (R105). -/
def shiftedOffset (rest : BitVec 25) : Bool :=
  rest.extractLsb' 4 8 != 0#8 && !(rest.extractLsb' 24 1 == 0#1 && rest.extractLsb' 21 1 == 1#1)

/-- A service number that has no row of its own (R264). -/
def otherService (service : BitVec 24) : Bool := service != 0#24 && service != 1#24 && service != 2#24

/-- Well-formed: the word of this instruction is read back as this instruction. -/
def Instr.wellFormed : Instr → Bool
  | .mul _ _ _ _ _ _ _ => true
  | .mla _ _ _ _ _ _ _ => true
  | .dpReservedShiftKind _ _ _ => true
  | .dpReservedBit7 _ _ _ => true
  | .andImm _ _ _ _ _ imm8 => immNotMultiply imm8
  | .andShiftImm _ _ _ _ _ _ _ => true
  | .andShiftReg _ _ _ _ _ _ _ => true
  | .eorImm _ _ _ _ _ imm8 => immNotMultiply imm8
  | .eorShiftImm _ _ _ _ _ _ _ => true
  | .eorShiftReg _ _ _ _ _ _ _ => true
  | .subImm _ _ _ _ _ imm8 => immNotMultiply imm8
  | .subShiftImm _ _ _ _ _ _ _ => true
  | .subShiftReg _ _ _ _ _ _ _ => true
  | .addImm _ _ _ _ _ imm8 => immNotMultiply imm8
  | .addShiftImm _ _ _ _ _ _ _ => true
  | .addShiftReg _ _ _ _ _ _ _ => true
  | .cmpImm _ _ _ _ _ imm8 => immNotMultiply imm8
  | .cmpShiftImm _ _ _ _ _ _ _ => true
  | .cmpShiftReg _ _ _ _ _ _ _ => true
  | .orrImm _ _ _ _ _ imm8 => immNotMultiply imm8
  | .orrShiftImm _ _ _ _ _ _ _ => true
  | .orrShiftReg _ _ _ _ _ _ _ => true
  | .movImm _ _ _ _ _ imm8 => immNotMultiply imm8
  | .movShiftImm _ _ _ _ _ _ _ => true
  | .movShiftReg _ _ _ _ _ _ _ => true
  | .bicImm _ _ _ _ _ imm8 => immNotMultiply imm8
  | .bicShiftImm _ _ _ _ _ _ _ => true
  | .bicShiftReg _ _ _ _ _ _ _ => true
  | .undef0011 _ imm rest => undefNotOtherRow imm rest
  | .undef0101 _ imm rest => undefNotOtherRow imm rest
  | .undef0110 _ imm rest => undefNotOtherRow imm rest
  | .undef0111 _ imm rest => undefNotOtherRow imm rest
  | .undef1000 _ imm rest => undefNotOtherRow imm rest
  | .undef1001 _ imm rest => undefNotOtherRow imm rest
  | .undef1011 _ imm rest => undefNotOtherRow imm rest
  | .undef1111 _ imm rest => undefNotOtherRow imm rest
  | .lsReservedP0W1 _ _ _ _ => true
  | .ldrImmOffset _ _ _ _ _ _ => true
  | .ldrImmPre _ _ _ _ _ _ => true
  | .ldrImmPost _ _ _ _ _ _ => true
  | .ldrRegOffset _ _ _ _ _ _ => true
  | .ldrRegPre _ _ _ _ _ _ => true
  | .ldrRegPost _ _ _ _ _ _ => true
  | .strImmOffset _ _ _ _ _ _ => true
  | .strImmPre _ _ _ _ _ _ => true
  | .strImmPost _ _ _ _ _ _ => true
  | .strRegOffset _ _ _ _ _ _ => true
  | .strRegPre _ _ _ _ _ _ => true
  | .strRegPost _ _ _ _ _ _ => true
  | .lsReservedShiftedOffset _ rest => shiftedOffset rest
  | .b _ _ => true
  | .bl _ _ => true
  | .unknownSel10 _ _ => true
  | .swiHalt _ => true
  | .swiDumpRegisters _ => true
  | .swiPrintR0 _ => true
  | .swiOther _ service => otherService service
  | .unknownSel11 _ sub _ => sub != 0b11#2

/-- Admitted (R12): not reserved by R96, R100 or R241. -/
def Instr.admitted : Instr → Bool
  | .mul _ _ _ _ _ _ _ => true
  | .mla _ _ _ _ _ _ _ => true
  | .dpReservedShiftKind _ _ _ => false
  | .dpReservedBit7 _ _ _ => false
  | .andImm _ _ _ _ _ _ => true
  | .andShiftImm _ _ _ _ _ _ _ => true
  | .andShiftReg _ _ _ _ _ _ _ => true
  | .eorImm _ _ _ _ _ _ => true
  | .eorShiftImm _ _ _ _ _ _ _ => true
  | .eorShiftReg _ _ _ _ _ _ _ => true
  | .subImm _ _ _ _ _ _ => true
  | .subShiftImm _ _ _ _ _ _ _ => true
  | .subShiftReg _ _ _ _ _ _ _ => true
  | .addImm _ _ _ _ _ _ => true
  | .addShiftImm _ _ _ _ _ _ _ => true
  | .addShiftReg _ _ _ _ _ _ _ => true
  | .cmpImm _ _ _ _ _ _ => true
  | .cmpShiftImm _ _ _ _ _ _ _ => true
  | .cmpShiftReg _ _ _ _ _ _ _ => true
  | .orrImm _ _ _ _ _ _ => true
  | .orrShiftImm _ _ _ _ _ _ _ => true
  | .orrShiftReg _ _ _ _ _ _ _ => true
  | .movImm _ _ _ _ _ _ => true
  | .movShiftImm _ _ _ _ _ _ _ => true
  | .movShiftReg _ _ _ _ _ _ _ => true
  | .bicImm _ _ _ _ _ _ => true
  | .bicShiftImm _ _ _ _ _ _ _ => true
  | .bicShiftReg _ _ _ _ _ _ _ => true
  | .undef0011 _ _ _ => true
  | .undef0101 _ _ _ => true
  | .undef0110 _ _ _ => true
  | .undef0111 _ _ _ => true
  | .undef1000 _ _ _ => true
  | .undef1001 _ _ _ => true
  | .undef1011 _ _ _ => true
  | .undef1111 _ _ _ => true
  | .lsReservedP0W1 _ _ _ _ => false
  | .ldrImmOffset _ _ _ _ _ _ => true
  | .ldrImmPre _ _ _ rn rd _ => rn != rd
  | .ldrImmPost _ _ _ rn rd _ => rn != rd
  | .ldrRegOffset _ _ _ _ _ _ => true
  | .ldrRegPre _ _ _ rn rd _ => rn != rd
  | .ldrRegPost _ _ _ rn rd _ => rn != rd
  | .strImmOffset _ _ _ _ _ _ => true
  | .strImmPre _ _ _ rn rd _ => rn != rd
  | .strImmPost _ _ _ rn rd _ => rn != rd
  | .strRegOffset _ _ _ _ _ _ => true
  | .strRegPre _ _ _ rn rd _ => rn != rd
  | .strRegPost _ _ _ rn rd _ => rn != rd
  | .lsReservedShiftedOffset _ _ => false
  | .b _ _ => true
  | .bl _ _ => true
  | .unknownSel10 _ _ => true
  | .swiHalt _ => true
  | .swiDumpRegisters _ => true
  | .swiPrintR0 _ => true
  | .swiOther _ _ => true
  | .unknownSel11 _ _ _ => true

end Sys2Proof
end

