-- ==== Sys2Proof/Decode.lean ====
section
/-! DEFINITION. Bit extraction, the family classifier, the decoder and after it the encoder, all from
spec/30_encoding.md. The decoder is total on words (R105); on bytes it rejects, by name, fewer than four of them. -/

namespace Sys2Proof

/-! Bit extraction (R81 to R83) -/

/-- `get_bits(word, offset, width)` (R81). -/
def getBits (w : Word) (offset width : Nat) : BitVec width := w.extractLsb' offset width

/-- `get_bit(word, n)` (R82). -/
def getBit (w : Word) (n : Nat) : Bool := getBits w n 1 != 0#1

/-- The condition of a condition field (R102). -/
def condOfBits (c : BitVec 4) : Cond :=
  match c with
  | 0b0000#4 => .eq
  | 0b0001#4 => .ne
  | 0b0010#4 => .cs
  | 0b0011#4 => .cc
  | 0b0100#4 => .mi
  | 0b0101#4 => .pl
  | 0b0110#4 => .vs
  | 0b0111#4 => .vc
  | 0b1000#4 => .hi
  | 0b1001#4 => .ls
  | 0b1010#4 => .ge
  | 0b1011#4 => .lt
  | 0b1100#4 => .gt
  | 0b1101#4 => .le
  | 0b1110#4 => .al
  | _ => .nv

/-- `get_cond(word)` (R83), as a condition. -/
def getCond (w : Word) : Cond := condOfBits (getBits w 28 4)

/-- The register a 4-bit field names (R20 of spec/10_state.md). -/
def regOfBits (r : BitVec 4) : RegNo := ⟨r.toNat, r.isLt⟩

/-- The register field of `w` whose lowest bit is bit `offset`. -/
def getReg (w : Word) (offset : Nat) : RegNo := regOfBits (getBits w offset 4)

/-- The shift kind of bit 5, where bit 6 is 0 (R94, R105). -/
def getKind (w : Word) : ShiftKind := if getBit w 5 then .lsr else .lsl

/-! The classifier (R86) -/

/-- The family of a word. It reads bits 27:24 and 7:4 only. -/
def classify (w : Word) : Family :=
  match getBits w 26 2 with
  | 0b00#2 => if getBits w 4 4 = 0b1001#4 then .multiply else .dataProcessing
  | 0b01#2 => .loadStore
  | 0b10#2 => if getBit w 25 then .branch else .unknown
  | _ => if getBits w 24 2 = 0b11#2 then .softwareInterrupt else .unknown

/-! The decoder's output record for a trace display (R109) -/

/-- Operand2 of a DataProcessing word as R109 lists it. -/
inductive DecodedOperand where
  | imm (rotate : BitVec 4) (imm8 : BitVec 8)
  | shiftImm (rm : BitVec 4) (shkind : BitVec 2) (shamt : BitVec 5)
  | shiftReg (rm : BitVec 4) (shkind : BitVec 2) (rs : BitVec 4)
deriving DecidableEq, Repr

/-- The offset of a LoadStore word as R109 lists it. -/
inductive DecodedOffset where
  | imm (imm12 : BitVec 12)
  | reg (rm : BitVec 4)
deriving DecidableEq, Repr

/-- The fields of each family as R109 lists them. -/
inductive DecodedFields where
  | dataProcessing (i : Bool) (opcode : BitVec 4) (s : Bool) (rn rd : BitVec 4) (operand : DecodedOperand)
  | multiply (a s : Bool) (rd rn rs rm : BitVec 4)
  | branch (l : Bool) (imm24 : BitVec 24)
  | loadStore (i p u w l : Bool) (rn rd : BitVec 4) (offset : DecodedOffset)
  | softwareInterrupt (service : BitVec 24)
  | unknown
deriving DecidableEq, Repr

/-- The decode result of a word (R109). -/
structure DecodeResult where
  cond : BitVec 4
  family : Family
  fields : DecodedFields
deriving DecidableEq, Repr

/-- Operand2 of a DataProcessing word (R109). -/
def decodedOperand (w : Word) : DecodedOperand :=
  if getBit w 25 then .imm (getBits w 8 4) (getBits w 0 8)
  else if getBit w 4 then .shiftReg (getBits w 0 4) (getBits w 5 2) (getBits w 8 4)
  else .shiftImm (getBits w 0 4) (getBits w 5 2) (getBits w 7 5)

/-- The fields extracted from a word of each family (R109). -/
def decodedFields (w : Word) : Family → DecodedFields
  | .dataProcessing =>
    .dataProcessing (getBit w 25) (getBits w 21 4) (getBit w 20) (getBits w 16 4) (getBits w 12 4) (decodedOperand w)
  | .multiply => .multiply (getBit w 21) (getBit w 20) (getBits w 16 4) (getBits w 12 4) (getBits w 8 4) (getBits w 0 4)
  | .branch => .branch (getBit w 24) (getBits w 0 24)
  | .loadStore =>
    .loadStore (getBit w 25) (getBit w 24) (getBit w 23) (getBit w 21) (getBit w 20) (getBits w 16 4) (getBits w 12 4)
      (if getBit w 25 then .reg (getBits w 0 4) else .imm (getBits w 0 12))
  | .softwareInterrupt => .softwareInterrupt (getBits w 0 24)
  | .unknown => .unknown

/-- The decode result of a word (R109): a pure function of the word. -/
def decodeResult (w : Word) : DecodeResult := ⟨getBits w 28 4, classify w, decodedFields w (classify w)⟩

/-! The decoder -/

/-- A Multiply word (R97). -/
def decodeMultiply (w : Word) : Instr :=
  if getBit w 21 then
    .mla (getCond w) (getBits w 22 4) (getBit w 20) (getReg w 16) (getReg w 12) (getReg w 8) (getReg w 0)
  else
    .mul (getCond w) (getBits w 22 4) (getBit w 20) (getReg w 16) (getReg w 12) (getReg w 8) (getReg w 0)

/-- The undefined-opcode rows by opcode (R92); the eight opcodes that have a handler never reach it. -/
def decodeUndefined (w : Word) : Instr :=
  match getBits w 21 4 with
  | 0b0011#4 => .undef0011 (getCond w) (getBit w 25) (getBits w 0 21)
  | 0b0101#4 => .undef0101 (getCond w) (getBit w 25) (getBits w 0 21)
  | 0b0110#4 => .undef0110 (getCond w) (getBit w 25) (getBits w 0 21)
  | 0b0111#4 => .undef0111 (getCond w) (getBit w 25) (getBits w 0 21)
  | 0b1000#4 => .undef1000 (getCond w) (getBit w 25) (getBits w 0 21)
  | 0b1001#4 => .undef1001 (getCond w) (getBit w 25) (getBits w 0 21)
  | 0b1011#4 => .undef1011 (getCond w) (getBit w 25) (getBits w 0 21)
  | _ => .undef1111 (getCond w) (getBit w 25) (getBits w 0 21)

/-- A DataProcessing word with an immediate operand (R91 to R93). -/
def decodeDpImm (w : Word) : Instr :=
  match getBits w 21 4 with
  | 0b0000#4 => .andImm (getCond w) (getBit w 20) (getReg w 16) (getReg w 12) (getBits w 8 4) (getBits w 0 8)
  | 0b0001#4 => .eorImm (getCond w) (getBit w 20) (getReg w 16) (getReg w 12) (getBits w 8 4) (getBits w 0 8)
  | 0b0010#4 => .subImm (getCond w) (getBit w 20) (getReg w 16) (getReg w 12) (getBits w 8 4) (getBits w 0 8)
  | 0b0100#4 => .addImm (getCond w) (getBit w 20) (getReg w 16) (getReg w 12) (getBits w 8 4) (getBits w 0 8)
  | 0b1010#4 => .cmpImm (getCond w) (getBit w 20) (getReg w 16) (getReg w 12) (getBits w 8 4) (getBits w 0 8)
  | 0b1100#4 => .orrImm (getCond w) (getBit w 20) (getReg w 16) (getReg w 12) (getBits w 8 4) (getBits w 0 8)
  | 0b1101#4 => .movImm (getCond w) (getBit w 20) (getReg w 16) (getReg w 12) (getBits w 8 4) (getBits w 0 8)
  | 0b1110#4 => .bicImm (getCond w) (getBit w 20) (getReg w 16) (getReg w 12) (getBits w 8 4) (getBits w 0 8)
  | _ => decodeUndefined w

/-- A DataProcessing word with a register shifted by an immediate amount (R94). -/
def decodeDpShiftImm (w : Word) : Instr :=
  match getBits w 21 4 with
  | 0b0000#4 => .andShiftImm (getCond w) (getBit w 20) (getReg w 16) (getReg w 12) (getBits w 7 5) (getKind w) (getReg w 0)
  | 0b0001#4 => .eorShiftImm (getCond w) (getBit w 20) (getReg w 16) (getReg w 12) (getBits w 7 5) (getKind w) (getReg w 0)
  | 0b0010#4 => .subShiftImm (getCond w) (getBit w 20) (getReg w 16) (getReg w 12) (getBits w 7 5) (getKind w) (getReg w 0)
  | 0b0100#4 => .addShiftImm (getCond w) (getBit w 20) (getReg w 16) (getReg w 12) (getBits w 7 5) (getKind w) (getReg w 0)
  | 0b1010#4 => .cmpShiftImm (getCond w) (getBit w 20) (getReg w 16) (getReg w 12) (getBits w 7 5) (getKind w) (getReg w 0)
  | 0b1100#4 => .orrShiftImm (getCond w) (getBit w 20) (getReg w 16) (getReg w 12) (getBits w 7 5) (getKind w) (getReg w 0)
  | 0b1101#4 => .movShiftImm (getCond w) (getBit w 20) (getReg w 16) (getReg w 12) (getBits w 7 5) (getKind w) (getReg w 0)
  | 0b1110#4 => .bicShiftImm (getCond w) (getBit w 20) (getReg w 16) (getReg w 12) (getBits w 7 5) (getKind w) (getReg w 0)
  | _ => decodeUndefined w

/-- A DataProcessing word with a register shifted by a register amount (R95). -/
def decodeDpShiftReg (w : Word) : Instr :=
  match getBits w 21 4 with
  | 0b0000#4 => .andShiftReg (getCond w) (getBit w 20) (getReg w 16) (getReg w 12) (getReg w 8) (getKind w) (getReg w 0)
  | 0b0001#4 => .eorShiftReg (getCond w) (getBit w 20) (getReg w 16) (getReg w 12) (getReg w 8) (getKind w) (getReg w 0)
  | 0b0010#4 => .subShiftReg (getCond w) (getBit w 20) (getReg w 16) (getReg w 12) (getReg w 8) (getKind w) (getReg w 0)
  | 0b0100#4 => .addShiftReg (getCond w) (getBit w 20) (getReg w 16) (getReg w 12) (getReg w 8) (getKind w) (getReg w 0)
  | 0b1010#4 => .cmpShiftReg (getCond w) (getBit w 20) (getReg w 16) (getReg w 12) (getReg w 8) (getKind w) (getReg w 0)
  | 0b1100#4 => .orrShiftReg (getCond w) (getBit w 20) (getReg w 16) (getReg w 12) (getReg w 8) (getKind w) (getReg w 0)
  | 0b1101#4 => .movShiftReg (getCond w) (getBit w 20) (getReg w 16) (getReg w 12) (getReg w 8) (getKind w) (getReg w 0)
  | 0b1110#4 => .bicShiftReg (getCond w) (getBit w 20) (getReg w 16) (getReg w 12) (getReg w 8) (getKind w) (getReg w 0)
  | _ => decodeUndefined w

/-- A DataProcessing word (R91). With I = 0 the reserved operand encodings come first, whatever the opcode (R96). -/
def decodeDataProcessing (w : Word) : Instr :=
  if getBit w 25 then decodeDpImm w
  else if getBit w 6 then .dpReservedShiftKind (getCond w) (getBits w 7 18) (getBits w 0 6)
  else if getBits w 4 4 = 0b1011#4 then .dpReservedBit7 (getCond w) (getBits w 8 17) (getBits w 0 4)
  else if getBit w 4 then decodeDpShiftReg w
  else decodeDpShiftImm w

/-- A Branch word (R98). -/
def decodeBranch (w : Word) : Instr :=
  if getBit w 24 then .bl (getCond w) (getBits w 0 24) else .b (getCond w) (getBits w 0 24)

/-- A LoadStore word with an immediate offset (R99, R231), P, W and L in that order; P = 0 with W = 1 never reaches
it. -/
def decodeLsImm (w : Word) : Instr :=
  match getBit w 24, getBit w 21, getBit w 20 with
  | true, false, true => .ldrImmOffset (getCond w) (getBit w 23) (getBit w 22) (getReg w 16) (getReg w 12) (getBits w 0 12)
  | true, true, true => .ldrImmPre (getCond w) (getBit w 23) (getBit w 22) (getReg w 16) (getReg w 12) (getBits w 0 12)
  | false, _, true => .ldrImmPost (getCond w) (getBit w 23) (getBit w 22) (getReg w 16) (getReg w 12) (getBits w 0 12)
  | true, false, false => .strImmOffset (getCond w) (getBit w 23) (getBit w 22) (getReg w 16) (getReg w 12) (getBits w 0 12)
  | true, true, false => .strImmPre (getCond w) (getBit w 23) (getBit w 22) (getReg w 16) (getReg w 12) (getBits w 0 12)
  | false, _, false => .strImmPost (getCond w) (getBit w 23) (getBit w 22) (getReg w 16) (getReg w 12) (getBits w 0 12)

/-- A LoadStore word with an unshifted register offset (R99, R232). -/
def decodeLsReg (w : Word) : Instr :=
  match getBit w 24, getBit w 21, getBit w 20 with
  | true, false, true => .ldrRegOffset (getCond w) (getBit w 23) (getBit w 22) (getReg w 16) (getReg w 12) (getReg w 0)
  | true, true, true => .ldrRegPre (getCond w) (getBit w 23) (getBit w 22) (getReg w 16) (getReg w 12) (getReg w 0)
  | false, _, true => .ldrRegPost (getCond w) (getBit w 23) (getBit w 22) (getReg w 16) (getReg w 12) (getReg w 0)
  | true, false, false => .strRegOffset (getCond w) (getBit w 23) (getBit w 22) (getReg w 16) (getReg w 12) (getReg w 0)
  | true, true, false => .strRegPre (getCond w) (getBit w 23) (getBit w 22) (getReg w 16) (getReg w 12) (getReg w 0)
  | false, _, false => .strRegPost (getCond w) (getBit w 23) (getBit w 22) (getReg w 16) (getReg w 12) (getReg w 0)

/-- A LoadStore word (R99), the reserved ones of R100 (a) and (b) included. R100 (c) is no matter of decoding: the
meaning refuses it. -/
def decodeLoadStore (w : Word) : Instr :=
  if !getBit w 24 && getBit w 21 then .lsReservedP0W1 (getCond w) (getBit w 25) (getBits w 22 2) (getBits w 0 21)
  else if !getBit w 25 then decodeLsImm w
  else if getBits w 4 8 = 0#8 then decodeLsReg w
  else .lsReservedShiftedOffset (getCond w) (getBits w 0 25)

/-- A SoftwareInterrupt word (R101). -/
def decodeSoftwareInterrupt (w : Word) : Instr :=
  match getBits w 0 24 with
  | 0#24 => .swiHalt (getCond w)
  | 1#24 => .swiDumpRegisters (getCond w)
  | 2#24 => .swiPrintR0 (getCond w)
  | service => .swiOther (getCond w) service

/-- An Unknown word (R272): selector 11 or, the only other way, selector 10 with bit 25 = 0. -/
def decodeUnknown (w : Word) : Instr :=
  if getBit w 26 then .unknownSel11 (getBits w 28 4) (getBits w 24 2) (getBits w 0 24)
  else .unknownSel10 (getBits w 28 4) (getBits w 0 25)

/-- The decoder: classify (R86), then read the family's fields. Total: every word is some row's (R105). -/
def decodeWord (w : Word) : Instr :=
  match classify w with
  | .dataProcessing => decodeDataProcessing w
  | .multiply => decodeMultiply w
  | .branch => decodeBranch w
  | .loadStore => decodeLoadStore w
  | .softwareInterrupt => decodeSoftwareInterrupt w
  | .unknown => decodeUnknown w

/-- Why the decoder of bytes rejects. -/
inductive DecodeError where
  /-- Fewer than four bytes are left: an instruction is always four (R80). The machine never meets it: a fetch always
  gets four bytes (spec/20_memory.md R53). -/
  | truncated
deriving DecidableEq, Repr

/-- Four bytes as a word, least significant first (R80, spec/20_memory.md R53). -/
def wordOfBytes (b0 b1 b2 b3 : Byte) : Word := b3 ++ b2 ++ b1 ++ b0

/-- The decoder of bytes: the instruction in the first four, and the rest. -/
def decodeBytes : List Byte → Except DecodeError (Instr × List Byte)
  | b0 :: b1 :: b2 :: b3 :: rest => .ok (decodeWord (wordOfBytes b0 b1 b2 b3), rest)
  | _ => .error .truncated

/-- The four bytes of a word as the hardware stores them, least significant first (spec/20_memory.md R54). -/
def bytesOfWord (w : Word) : List Byte := [getBits w 0 8, getBits w 8 8, getBits w 16 8, getBits w 24 8]

/-- The instruction word whose table bits, `nbits` of them, are `w`; bits above are zero. -/
def tableWord (nbits w : Nat) : Word := BitVec.ofNat 32 (w % 2 ^ nbits)

/-- What the decoder reads from the instruction whose table bits are `w` (the host's question). -/
def decodeTableWord (nbits w : Nat) : Option Instr :=
  match decodeBytes (bytesOfWord (tableWord nbits w)) with
  | .ok (i, _) => some i
  | .error _ => none

/-! The encoder: one function per format of spec/30_encoding.md, then one line per instruction -/

/-- The condition field (R102). -/
def condBits : Cond → BitVec 4
  | .eq => 0b0000#4
  | .ne => 0b0001#4
  | .cs => 0b0010#4
  | .cc => 0b0011#4
  | .mi => 0b0100#4
  | .pl => 0b0101#4
  | .vs => 0b0110#4
  | .vc => 0b0111#4
  | .hi => 0b1000#4
  | .ls => 0b1001#4
  | .ge => 0b1010#4
  | .lt => 0b1011#4
  | .gt => 0b1100#4
  | .le => 0b1101#4
  | .al => 0b1110#4
  | .nv => 0b1111#4

/-- A register field. -/
def regBits (r : RegNo) : BitVec 4 := BitVec.ofNat 4 r.val

/-- A one-bit field. -/
def bit (b : Bool) : BitVec 1 := BitVec.ofBool b

/-- The shift kind field, bits 6:5 (R94). -/
def kindBits : ShiftKind → BitVec 2
  | .lsl => 0b00#2
  | .lsr => 0b01#2

/-- The DataProcessing format (R91). -/
def dpWord (cond : Cond) (i : Bool) (opcode : BitVec 4) (upd : Bool) (rn rd : RegNo) (op2 : BitVec 12) : Word :=
  condBits cond ++ 0b00#2 ++ bit i ++ opcode ++ bit upd ++ regBits rn ++ regBits rd ++ op2

/-- Immediate operand2 (R93). -/
def op2Imm (rotate : BitVec 4) (imm8 : BitVec 8) : BitVec 12 := rotate ++ imm8

/-- Register operand2 shifted by an immediate amount (R94). -/
def op2ShiftImm (shamt : BitVec 5) (kind : ShiftKind) (rm : RegNo) : BitVec 12 :=
  shamt ++ kindBits kind ++ 0b0#1 ++ regBits rm

/-- Register operand2 shifted by a register amount (R95). -/
def op2ShiftReg (rs : RegNo) (kind : ShiftKind) (rm : RegNo) : BitVec 12 :=
  regBits rs ++ 0b0#1 ++ kindBits kind ++ 0b1#1 ++ regBits rm

/-- An undefined-opcode word (R91, R92): bits 20:0 are not examined. -/
def undefWord (cond : Cond) (imm : Bool) (opcode : BitVec 4) (rest : BitVec 21) : Word :=
  condBits cond ++ 0b00#2 ++ bit imm ++ opcode ++ rest

/-- The Multiply format (R97). -/
def mulWord (cond : Cond) (ign : BitVec 4) (a upd : Bool) (rd rn rs rm : RegNo) : Word :=
  condBits cond ++ 0b00#2 ++ ign ++ bit a ++ bit upd ++ regBits rd ++ regBits rn ++ regBits rs ++ 0b1001#4 ++ regBits rm

/-- The Branch format (R98). -/
def branchWord (cond : Cond) (l : Bool) (imm24 : BitVec 24) : Word := condBits cond ++ 0b101#3 ++ bit l ++ imm24

/-- The LoadStore format (R99); `i` is the I bit, `b22` the ignored bit 22. -/
def lsWord (cond : Cond) (i p u b22 w l : Bool) (rn rd : RegNo) (offset : BitVec 12) : Word :=
  condBits cond ++ 0b01#2 ++ bit i ++ bit p ++ bit u ++ bit b22 ++ bit w ++ bit l ++ regBits rn ++ regBits rd ++ offset

/-- An unshifted register offset: bits 11:4 zero (R99). -/
def offsetReg (rm : RegNo) : BitVec 12 := 0#8 ++ regBits rm

/-- The SoftwareInterrupt format (R101). -/
def swiWord (cond : Cond) (service : BitVec 24) : Word := condBits cond ++ 0b1111#4 ++ service

/-- The word of an instruction. -/
def encode : Instr → Word
  | .mul cond ign upd rd rn rs rm => mulWord cond ign false upd rd rn rs rm
  | .mla cond ign upd rd rn rs rm => mulWord cond ign true upd rd rn rs rm
  | .dpReservedShiftKind cond hi lo => condBits cond ++ 0b000#3 ++ hi ++ 0b1#1 ++ lo
  | .dpReservedBit7 cond hi lo => condBits cond ++ 0b000#3 ++ hi ++ 0b1011#4 ++ lo
  | .andImm cond upd rn rd rotate imm8 => dpWord cond true 0b0000#4 upd rn rd (op2Imm rotate imm8)
  | .andShiftImm cond upd rn rd shamt kind rm => dpWord cond false 0b0000#4 upd rn rd (op2ShiftImm shamt kind rm)
  | .andShiftReg cond upd rn rd rs kind rm => dpWord cond false 0b0000#4 upd rn rd (op2ShiftReg rs kind rm)
  | .eorImm cond upd rn rd rotate imm8 => dpWord cond true 0b0001#4 upd rn rd (op2Imm rotate imm8)
  | .eorShiftImm cond upd rn rd shamt kind rm => dpWord cond false 0b0001#4 upd rn rd (op2ShiftImm shamt kind rm)
  | .eorShiftReg cond upd rn rd rs kind rm => dpWord cond false 0b0001#4 upd rn rd (op2ShiftReg rs kind rm)
  | .subImm cond upd rn rd rotate imm8 => dpWord cond true 0b0010#4 upd rn rd (op2Imm rotate imm8)
  | .subShiftImm cond upd rn rd shamt kind rm => dpWord cond false 0b0010#4 upd rn rd (op2ShiftImm shamt kind rm)
  | .subShiftReg cond upd rn rd rs kind rm => dpWord cond false 0b0010#4 upd rn rd (op2ShiftReg rs kind rm)
  | .addImm cond upd rn rd rotate imm8 => dpWord cond true 0b0100#4 upd rn rd (op2Imm rotate imm8)
  | .addShiftImm cond upd rn rd shamt kind rm => dpWord cond false 0b0100#4 upd rn rd (op2ShiftImm shamt kind rm)
  | .addShiftReg cond upd rn rd rs kind rm => dpWord cond false 0b0100#4 upd rn rd (op2ShiftReg rs kind rm)
  | .cmpImm cond upd rn rd rotate imm8 => dpWord cond true 0b1010#4 upd rn rd (op2Imm rotate imm8)
  | .cmpShiftImm cond upd rn rd shamt kind rm => dpWord cond false 0b1010#4 upd rn rd (op2ShiftImm shamt kind rm)
  | .cmpShiftReg cond upd rn rd rs kind rm => dpWord cond false 0b1010#4 upd rn rd (op2ShiftReg rs kind rm)
  | .orrImm cond upd rn rd rotate imm8 => dpWord cond true 0b1100#4 upd rn rd (op2Imm rotate imm8)
  | .orrShiftImm cond upd rn rd shamt kind rm => dpWord cond false 0b1100#4 upd rn rd (op2ShiftImm shamt kind rm)
  | .orrShiftReg cond upd rn rd rs kind rm => dpWord cond false 0b1100#4 upd rn rd (op2ShiftReg rs kind rm)
  | .movImm cond upd rn rd rotate imm8 => dpWord cond true 0b1101#4 upd rn rd (op2Imm rotate imm8)
  | .movShiftImm cond upd rn rd shamt kind rm => dpWord cond false 0b1101#4 upd rn rd (op2ShiftImm shamt kind rm)
  | .movShiftReg cond upd rn rd rs kind rm => dpWord cond false 0b1101#4 upd rn rd (op2ShiftReg rs kind rm)
  | .bicImm cond upd rn rd rotate imm8 => dpWord cond true 0b1110#4 upd rn rd (op2Imm rotate imm8)
  | .bicShiftImm cond upd rn rd shamt kind rm => dpWord cond false 0b1110#4 upd rn rd (op2ShiftImm shamt kind rm)
  | .bicShiftReg cond upd rn rd rs kind rm => dpWord cond false 0b1110#4 upd rn rd (op2ShiftReg rs kind rm)
  | .undef0011 cond imm rest => undefWord cond imm 0b0011#4 rest
  | .undef0101 cond imm rest => undefWord cond imm 0b0101#4 rest
  | .undef0110 cond imm rest => undefWord cond imm 0b0110#4 rest
  | .undef0111 cond imm rest => undefWord cond imm 0b0111#4 rest
  | .undef1000 cond imm rest => undefWord cond imm 0b1000#4 rest
  | .undef1001 cond imm rest => undefWord cond imm 0b1001#4 rest
  | .undef1011 cond imm rest => undefWord cond imm 0b1011#4 rest
  | .undef1111 cond imm rest => undefWord cond imm 0b1111#4 rest
  | .lsReservedP0W1 cond imm hi lo => condBits cond ++ 0b01#2 ++ bit imm ++ 0b0#1 ++ hi ++ 0b1#1 ++ lo
  | .ldrImmOffset cond up b22 rn rd imm12 => lsWord cond false true up b22 false true rn rd imm12
  | .ldrImmPre cond up b22 rn rd imm12 => lsWord cond false true up b22 true true rn rd imm12
  | .ldrImmPost cond up b22 rn rd imm12 => lsWord cond false false up b22 false true rn rd imm12
  | .ldrRegOffset cond up b22 rn rd rm => lsWord cond true true up b22 false true rn rd (offsetReg rm)
  | .ldrRegPre cond up b22 rn rd rm => lsWord cond true true up b22 true true rn rd (offsetReg rm)
  | .ldrRegPost cond up b22 rn rd rm => lsWord cond true false up b22 false true rn rd (offsetReg rm)
  | .strImmOffset cond up b22 rn rd imm12 => lsWord cond false true up b22 false false rn rd imm12
  | .strImmPre cond up b22 rn rd imm12 => lsWord cond false true up b22 true false rn rd imm12
  | .strImmPost cond up b22 rn rd imm12 => lsWord cond false false up b22 false false rn rd imm12
  | .strRegOffset cond up b22 rn rd rm => lsWord cond true true up b22 false false rn rd (offsetReg rm)
  | .strRegPre cond up b22 rn rd rm => lsWord cond true true up b22 true false rn rd (offsetReg rm)
  | .strRegPost cond up b22 rn rd rm => lsWord cond true false up b22 false false rn rd (offsetReg rm)
  | .lsReservedShiftedOffset cond rest => condBits cond ++ 0b011#3 ++ rest
  | .b cond imm24 => branchWord cond false imm24
  | .bl cond imm24 => branchWord cond true imm24
  | .unknownSel10 top rest => top ++ 0b100#3 ++ rest
  | .swiHalt cond => swiWord cond 0#24
  | .swiDumpRegisters cond => swiWord cond 1#24
  | .swiPrintR0 cond => swiWord cond 2#24
  | .swiOther cond service => swiWord cond service
  | .unknownSel11 top sub rest => top ++ 0b11#2 ++ sub ++ rest

/-- The family of an instruction (R86, opcode_table.json's "format"). -/
def familyOf : Instr → Family
  | .mul _ _ _ _ _ _ _ => .multiply
  | .mla _ _ _ _ _ _ _ => .multiply
  | .dpReservedShiftKind _ _ _ => .dataProcessing
  | .dpReservedBit7 _ _ _ => .dataProcessing
  | .andImm _ _ _ _ _ _ => .dataProcessing
  | .andShiftImm _ _ _ _ _ _ _ => .dataProcessing
  | .andShiftReg _ _ _ _ _ _ _ => .dataProcessing
  | .eorImm _ _ _ _ _ _ => .dataProcessing
  | .eorShiftImm _ _ _ _ _ _ _ => .dataProcessing
  | .eorShiftReg _ _ _ _ _ _ _ => .dataProcessing
  | .subImm _ _ _ _ _ _ => .dataProcessing
  | .subShiftImm _ _ _ _ _ _ _ => .dataProcessing
  | .subShiftReg _ _ _ _ _ _ _ => .dataProcessing
  | .addImm _ _ _ _ _ _ => .dataProcessing
  | .addShiftImm _ _ _ _ _ _ _ => .dataProcessing
  | .addShiftReg _ _ _ _ _ _ _ => .dataProcessing
  | .cmpImm _ _ _ _ _ _ => .dataProcessing
  | .cmpShiftImm _ _ _ _ _ _ _ => .dataProcessing
  | .cmpShiftReg _ _ _ _ _ _ _ => .dataProcessing
  | .orrImm _ _ _ _ _ _ => .dataProcessing
  | .orrShiftImm _ _ _ _ _ _ _ => .dataProcessing
  | .orrShiftReg _ _ _ _ _ _ _ => .dataProcessing
  | .movImm _ _ _ _ _ _ => .dataProcessing
  | .movShiftImm _ _ _ _ _ _ _ => .dataProcessing
  | .movShiftReg _ _ _ _ _ _ _ => .dataProcessing
  | .bicImm _ _ _ _ _ _ => .dataProcessing
  | .bicShiftImm _ _ _ _ _ _ _ => .dataProcessing
  | .bicShiftReg _ _ _ _ _ _ _ => .dataProcessing
  | .undef0011 _ _ _ => .dataProcessing
  | .undef0101 _ _ _ => .dataProcessing
  | .undef0110 _ _ _ => .dataProcessing
  | .undef0111 _ _ _ => .dataProcessing
  | .undef1000 _ _ _ => .dataProcessing
  | .undef1001 _ _ _ => .dataProcessing
  | .undef1011 _ _ _ => .dataProcessing
  | .undef1111 _ _ _ => .dataProcessing
  | .lsReservedP0W1 _ _ _ _ => .loadStore
  | .ldrImmOffset _ _ _ _ _ _ => .loadStore
  | .ldrImmPre _ _ _ _ _ _ => .loadStore
  | .ldrImmPost _ _ _ _ _ _ => .loadStore
  | .ldrRegOffset _ _ _ _ _ _ => .loadStore
  | .ldrRegPre _ _ _ _ _ _ => .loadStore
  | .ldrRegPost _ _ _ _ _ _ => .loadStore
  | .strImmOffset _ _ _ _ _ _ => .loadStore
  | .strImmPre _ _ _ _ _ _ => .loadStore
  | .strImmPost _ _ _ _ _ _ => .loadStore
  | .strRegOffset _ _ _ _ _ _ => .loadStore
  | .strRegPre _ _ _ _ _ _ => .loadStore
  | .strRegPost _ _ _ _ _ _ => .loadStore
  | .lsReservedShiftedOffset _ _ => .loadStore
  | .b _ _ => .branch
  | .bl _ _ => .branch
  | .unknownSel10 _ _ => .unknown
  | .swiHalt _ => .softwareInterrupt
  | .swiDumpRegisters _ => .softwareInterrupt
  | .swiPrintR0 _ => .softwareInterrupt
  | .swiOther _ _ => .softwareInterrupt
  | .unknownSel11 _ _ _ => .unknown

end Sys2Proof
end

