-- ==== Sys2Proof/Config.lean ====
section
/-! DEFINITION. The parameters of the machine (spec/00_scope.md R5) and its free values. -/

namespace Sys2Proof

/-- FILL_MODE: what a read of a never-written byte returns (spec/20_memory.md R52). -/
inductive FillMode where
  /-- The byte is 0x00, on every read. -/
  | deterministic
  /-- The byte is any byte, chosen anew at every read. -/
  | random
deriving DecidableEq, Repr

/-- The two open parameters of R5. They are carried in the state as plain data, and no step changes them, so that a
statement over all states is a statement over all their values (log entries 4 and 8). -/
structure Params where
  /-- FILL_MODE (R52). -/
  fillMode : FillMode
  /-- WARN_GATED: the undefined-opcode warning is emitted only when the word's condition passes
  (spec/47_unknown_undefined.md R271). -/
  warnGated : Bool
deriving DecidableEq, Repr

/-- The parameters at `State.reset`: the values the spec's own vectors use (spec/95_test_vectors.md section 10).
DESIGN CHOICE: the spec leaves both open; unsafe if a statement rested on them (log entries 4 and 8). -/
def Config.params : Params := ⟨.deterministic, true⟩

/-- ENTRY_PC at `State.reset`. DESIGN CHOICE: the spec makes it a parameter of the reset (spec/10_state.md R33); unsafe
if a statement rested on it (log entry 2). `State.resetWith` takes any value. -/
def Config.entryPc : Word := 0#32

/-- FREE VALUE: the fill byte of the n-th draw in random mode. Any byte (spec/20_memory.md R52; log entry 5). -/
opaque Config.fillDraw : Nat → Byte

/-- FREE VALUE: the fill byte of the n-th draw of the trace display in random mode, separate from the core's own draws
(spec/10_state.md R35; log entry 6). -/
opaque Config.traceDraw : Nat → Byte

end Sys2Proof
end

