-- ==== Sys2Proof/Machine/State.lean ====
section
/-! DEFINITION. The state of the core as plain data, and its reset (spec/10_state.md). -/

namespace Sys2Proof.Machine

/-- The four flags: four separate one-bit cells, never a status word (spec/10_state.md R27). -/
structure Flags where
  n : Bool
  z : Bool
  c : Bool
  v : Bool
deriving DecidableEq, Repr

/-- The written bytes of the one address space (spec/10_state.md R31), as (address, byte) pairs. A byte that is not
listed was never written: it holds no value of its own, and a read of it returns the fill byte (spec/20_memory.md
R52). Whether a byte was written is part of the state, so a written 0x00 stays listed (log entry 7). -/
abbrev Memory := List Host.Cell

/-- The canonical form: addresses strictly rising and below 2^32 (spec/20_memory.md R50), so that equal memories are
equal lists. No listed byte can equal "what an unlisted address reads as", because an unlisted address has no value
(log entry 7). -/
abbrev Memory.wf (m : Memory) : Prop := (m.Pairwise fun p q => p.1 < q.1) ∧ ∀ p ∈ m, p.1 < 2 ^ 32

/-- The events of the diagnostic output (spec/00_scope.md R6), each with the value its own rule gives it. -/
inductive DiagEvent where
  /-- Service 1: all sixteen registers (spec/46_software_interrupt.md R262). -/
  | dumpRegisters (regs : Vector Word 16)
  /-- Service 2: register 0 (R263). -/
  | printR0 (r0 : Word)
  /-- An undefined data-processing opcode (spec/47_unknown_undefined.md R271). -/
  | undefinedOpcodeWarning
deriving DecidableEq, Repr

/-- One item of the diagnostic output: an event and the snapshot of the register file that the stream carries with it
(spec/00_scope.md R6; log entry 16). -/
structure DiagRecord where
  event : DiagEvent
  /-- The sixteen registers as they are when the event is emitted. -/
  regs : Vector Word 16
deriving DecidableEq, Repr

/-- The state of the core. -/
structure State where
  /-- The sixteen general registers; number 15 is the program counter (R20, R23). -/
  regs : Vector Word 16
  /-- N, Z, C and V (R27). -/
  flags : Flags
  /-- The memory (R31). -/
  mem : Memory
  /-- The halted latch (R32). -/
  halted : Bool
  /-- The diagnostic output so far, oldest first: read by nothing in the core (log entry 9). -/
  diag : List DiagRecord
  /-- The MODEL'S OWN field: how many random fill bytes were drawn (log entry 5). -/
  draws : Nat
  /-- FILL_MODE and WARN_GATED, changed by no step (log entries 4 and 8). -/
  params : Params
deriving DecidableEq, Repr

/-- The reasons a step faults: none. The core raises no exception; every word, address and operand value has an
outcome (spec/60_exceptions.md R280), so no step of the model faults, and this inductive has no constructor. -/
inductive Fault where
deriving DecidableEq, Repr

/-- The reasons the model gives a word no meaning: the encodings for which the spec defines no behaviour
(spec/93_implementation_defined.md U1 to U5). Refusing is SAFE: the model stops where hardware would go on. -/
inductive Refusal where
  /-- An arm of exec without a meaning yet: none is left. Safe. -/
  | notModelled (mnemonic : String)
  /-- U1: I = 0 and shift kind 10 or 11 (spec/30_encoding.md R96 a). Raised by DP_RESERVED_SHIFT_KIND. Safe. -/
  | reservedShiftKind
  /-- U2: I = 0 and bits 7:4 = 1011 (R96 b). Raised by DP_RESERVED_BIT7. Safe. -/
  | reservedShiftBit7
  /-- U3: LoadStore with P = 0 and W = 1 (R100 a). Raised by LS_RESERVED_P0_W1. Safe. -/
  | reservedAddressing
  /-- U4: LoadStore with I = 1 and bits 11:4 not zero (R100 b). Raised by LS_RESERVED_SHIFTED_OFFSET. Safe. -/
  | reservedShiftedOffset
  /-- U5: base update with rd = rn (R100 c, spec/45_load_store.md R241). Raised by the pre-indexed and post-indexed
  forms of LDR and STR, on those operands only. Safe. -/
  | reservedBaseUpdate
deriving DecidableEq, Repr

/-- Sixteen zero registers but for the program counter (R33). -/
def resetRegs (entryPc : Word) : Vector Word 16 := (Vector.replicate 16 0#32).set 15 entryPc

/-- The state after reset for any parameters, ENTRY_PC and INITIAL_MEMORY (R33, spec/70_reset_and_hazards.md R300). -/
def State.resetWith (params : Params) (entryPc : Word) (initialMemory : Memory) : State where
  regs := resetRegs entryPc
  flags := ⟨false, false, false, false⟩
  mem := initialMemory
  halted := false
  diag := []
  draws := 0
  params := params

/-- The state after reset at the parameters this model names, with nothing loaded (log entries 2, 3, 4, 8). -/
def State.reset : State := State.resetWith Config.params Config.entryPc []

end Sys2Proof.Machine
end

