-- ==== Sys2Proof/Machine/Ops.lean ====
section
/-! DEFINITION. The named operations over registers, memory and outputs that every meaning is made of.

There is NO operation for taking an exception and none for returning from one: the core has no exception, no trap entry,
no saved register and no vector (spec/60_exceptions.md R280, R284, R285). -/

namespace Sys2Proof.Machine

/-- Register 14, the link register (spec/10_state.md R21). -/
abbrev lrNum : RegNo := 14

/-- Register 15, the program counter (spec/10_state.md R23). -/
abbrev pcNum : RegNo := 15

/-! Registers -/

/-- `x[r]`: the raw stored value, for register 15 too (spec/10_state.md R24). -/
def State.reg (s : State) (r : RegNo) : Word := s.regs[r.val]

/-- `x[r] <- v`: a plain write, for register 15 too (spec/10_state.md R25). -/
def State.setReg (s : State) (r : RegNo) (v : Word) : State := { s with regs := s.regs.set r.val v }

/-- `pc`, another name for `x[15]` (spec/00_scope.md R9). -/
def State.pc (s : State) : Word := s.reg pcNum

/-! The other fields -/

/-- Writes the four flags. -/
def State.setFlags (s : State) (f : Flags) : State := { s with flags := f }

/-- `halt`: sets the latch (spec/10_state.md R32). -/
def State.halt (s : State) : State := { s with halted := true }

/-- `emit`: one more event on the diagnostic output (spec/00_scope.md R9), with the snapshot of the register file that
the stream carries (R6). -/
def State.emit (s : State) (e : DiagEvent) : State := { s with diag := s.diag ++ [⟨e, s.regs⟩] }

/-- Replaces the memory. -/
def State.setMem (s : State) (m : Memory) : State := { s with mem := m }

/-- Records one more random draw. -/
def State.countDraw (s : State) : State := { s with draws := s.draws + 1 }

/-! Memory as a list of written bytes -/

/-- The byte written at `a`, or none if it was never written (spec/10_state.md R31). -/
def memLookup : Memory → Nat → Option Byte
  | [], _ => none
  | (k, x) :: t, a => if a = k then some x else memLookup t a

/-- Inserts or overwrites the byte at `a` (spec/20_memory.md R54, R66 c). -/
def memInsert : Memory → Nat → Byte → Memory
  | [], a, b => [(a, b)]
  | (k, x) :: t, a, b =>
    if a < k then (a, b) :: (k, x) :: t
    else if a = k then (a, b) :: t
    else (k, x) :: memInsert t a b

/-- `MemWrite(addr, n, v)` on a memory: the low `n` bytes of `v`, least significant first, at consecutive addresses
modulo 2^32 (spec/20_memory.md R54, R67). -/
def memStore (m : Memory) (addr : Word) : Nat → Word → Memory
  | 0, _ => m
  | n + 1, v => memStore (memInsert m addr.toNat (getBits v 0 8)) (addr + 1#32) n (v >>> 8)

/-! Memory as the core reaches it -/

/-- The fill byte of a read of a never-written address: 0x00 in deterministic mode, the free value of draw number
`draws` in random mode (spec/20_memory.md R52; log entry 5). -/
def fillByte (mode : FillMode) (draws : Nat) : Byte :=
  match mode with
  | .deterministic => 0#8
  | .random => Config.fillDraw draws

/-- The state after such a read: in random mode one more draw was made. The memory does not change: a read does not
make a byte written (spec/20_memory.md R51). -/
def State.afterFill (s : State) : State :=
  match s.params.fillMode with
  | .deterministic => s
  | .random => s.countDraw

/-- `MemRead(addr, 1)` (spec/20_memory.md R51, R52). -/
def readByte (s : State) (addr : Word) : Byte × State :=
  match memLookup s.mem addr.toNat with
  | some b => (b, s)
  | none => (fillByte s.params.fillMode s.draws, s.afterFill)

/-- `MemRead(addr, 4)`: four byte reads at addr to addr + 3 modulo 2^32, little-endian (spec/20_memory.md R53, R67). -/
def readWord (s : State) (addr : Word) : Word × State :=
  let r0 := readByte s addr
  let r1 := readByte r0.2 (addr + 1#32)
  let r2 := readByte r1.2 (addr + 2#32)
  let r3 := readByte r2.2 (addr + 3#32)
  (wordOfBytes r0.1 r1.1 r2.1 r3.1, r3.2)

/-- `MemWrite(addr, n, v)` (spec/20_memory.md R54). -/
def State.memWrite (s : State) (addr : Word) (n : Nat) (v : Word) : State := s.setMem (memStore s.mem addr n v)

/-! The step's own part -/

/-- Fetch and advance: the word at `x[15]`, and the state with `x[15] + 4`, modulo 2^32 (spec/10_state.md R23, R26;
spec/40_step_and_condition.md R130). -/
def fetch (s : State) : Word × State :=
  let r := readWord s s.pc
  (r.1, r.2.setReg pcNum (s.pc + 4#32))

/-- `s` with `word` stored where the next fetch reads it, and the latch open so that there is a next fetch: the host's
hook, no operation of the core (log entry 3). -/
def placeWord (s : State) (word : Word) : State := { s.memWrite s.pc 4 word with halted := false }

/-! Gating -/

/-- `ConditionPassed(cond)` on the flags (spec/40_step_and_condition.md R133). -/
def conditionPassed (cond : Cond) (f : Flags) : Bool :=
  match cond with
  | .eq => f.z
  | .mi => f.n
  | .pl => !f.n
  | .ge => f.n == f.v
  | .lt => f.n != f.v
  | .gt => !f.z && f.n == f.v
  | .le => f.z || f.n != f.v
  | .ne | .cs | .cc | .vs | .vc | .hi | .ls | .al | .nv => true

/-- The outcome of a handler: its effect if the condition passes on the flags the instruction starts with, nothing
otherwise (spec/40_step_and_condition.md R132, R137). -/
def whenPassed (cond : Cond) (s : State) (effect : State → State) : Host.Outcome State Fault Refusal :=
  .next (if conditionPassed cond s.flags then effect s else s)

end Sys2Proof.Machine
end

