-- ==== Sys2Proof/Machine/Operands.lean ====
section
/-! DEFINITION. Every operand form: operand2 of the DataProcessing family (spec/42_data_processing.md R171 to R173), the
offset and the addresses of a load or store (spec/45_load_store.md R231 to R236), the branch displacement
(spec/44_branch.md R220). -/

namespace Sys2Proof.Machine

/-! Shifts of spec/00_scope.md R9 -/

/-- 32-bit rotate right. -/
def ror32 (v : Word) (n : Nat) : Word := (v >>> n) ||| (v <<< (32 - n))

/-- Logical shift by 1 to 31; bits shifted out are lost. -/
def shift32 (kind : ShiftKind) (v : Word) (n : Nat) : Word :=
  match kind with
  | .lsl => v <<< n
  | .lsr => v >>> n

/-! Operand2 -/

/-- The rotated immediate (R171). -/
def operandImm (rotate : BitVec 4) (imm8 : BitVec 8) : Word := ror32 (imm8.setWidth 32) (2 * rotate.toNat)

/-- A register shifted by an immediate amount; amount 0 passes it through, for both kinds (R172). -/
def operandShiftImm (s : State) (shamt : BitVec 5) (kind : ShiftKind) (rm : RegNo) : Word :=
  if shamt.toNat = 0 then s.reg rm else shift32 kind (s.reg rm) shamt.toNat

/-- A value shifted by an amount of 0 to 255: 0 passes it through, 32 and above give 0, for both kinds (R173). -/
def shiftByAmount (kind : ShiftKind) (m : Word) (n : Nat) : Word :=
  if n = 0 then m else if n < 32 then shift32 kind m n else 0#32

/-- A register shifted by the low byte of another (R173). -/
def operandShiftReg (s : State) (rs : RegNo) (kind : ShiftKind) (rm : RegNo) : Word :=
  shiftByAmount kind (s.reg rm) (getBits (s.reg rs) 0 8).toNat

/-! Loads and stores -/

/-- The immediate offset: unsigned, 0 to 4095 (R231). -/
def offsetImm (imm12 : BitVec 12) : Word := imm12.setWidth 32

/-- The register offset; register 15 reads as its stored value plus 8 (R232). -/
def offsetOfReg (s : State) (rm : RegNo) : Word := if rm = pcNum then s.reg pcNum + 8#32 else s.reg rm

/-- The base plus or minus the offset (R234, R235, R236, R67). -/
def appliedAddr (s : State) (up : Bool) (rn : RegNo) (offset : Word) : Word :=
  if up then s.reg rn + offset else s.reg rn - offset

/-- The address of the access: the old base for a post-indexed form, the applied address otherwise (R245). -/
def accessAddr (s : State) (mode : AddrMode) (up : Bool) (rn : RegNo) (offset : Word) : Word :=
  match mode with
  | .postIndexed => s.reg rn
  | .offset | .preIndexed => appliedAddr s up rn offset

/-- Whether the variant writes the base back (R245). -/
def updatesBase : AddrMode → Bool
  | .offset => false
  | .preIndexed | .postIndexed => true

/-- The base update of the variant (R230). -/
def State.updateBase (s : State) (mode : AddrMode) (rn : RegNo) (applied : Word) : State :=
  if updatesBase mode then s.setReg rn applied else s

/-- The value a load writes: register 15 gets it with bits 1 and 0 cleared (R238). -/
def loadedValue (rd : RegNo) (v : Word) : Word := if rd = pcNum then v &&& 0xFFFFFFFC#32 else v

/-! Branches -/

/-- The displacement: sign-extended, times 4 (R220). -/
def branchDisp (imm24 : BitVec 24) : Word := imm24.signExtend 32 <<< 2

/-- The target: the stored program counter plus 4 plus the displacement (R220). -/
def branchTarget (s : State) (imm24 : BitVec 24) : Word := s.pc + 4#32 + branchDisp imm24

end Sys2Proof.Machine
end

