-- ==== Sys2Proof/Machine/Branch.lean ====
section
/-! DEFINITION. The Branch family (spec/44_branch.md). No delay slot, no annulment (R225). -/

namespace Sys2Proof.Machine

/-- The jump: `x[15]` gets the target, computed from the `x[15]` the instruction starts with (R220). -/
def jump (imm24 : BitVec 24) (s : State) : State := s.setReg pcNum (branchTarget s imm24)

/-- The link and the jump: `x[14]` gets the stored `x[15]`, the address of the next instruction (R222). -/
def linkAndJump (imm24 : BitVec 24) (s : State) : State :=
  (s.setReg lrNum s.pc).setReg pcNum (branchTarget s imm24)

/-- B (R221). -/
def execB (cond : Cond) (imm24 : BitVec 24) (s : State) : Host.Outcome State Fault Refusal :=
  whenPassed cond s (jump imm24)

/-- BL (R222). -/
def execBl (cond : Cond) (imm24 : BitVec 24) (s : State) : Host.Outcome State Fault Refusal :=
  whenPassed cond s (linkAndJump imm24)

end Sys2Proof.Machine
end

