-- ==== Sys2Proof/Machine/Flags.lean ====
section
/-! DEFINITION. The ten ALU primitives and the flag rules (spec/41_alu.md). A primitive takes the resolved operands, the
update request and the old flags, and gives the result and the new flags (R150); it reads nothing else. -/

namespace Sys2Proof.Machine

/-- What a primitive gives. -/
structure AluResult where
  value : Word
  flags : Flags
deriving DecidableEq, Repr

/-- The N-and-Z rule (R151); C and V keep their values (R162). -/
def flagsNZ (f : Flags) (r : Word) : Flags := { f with n := r.msb, z := r == 0#32 }

/-- The flags of ADD (R157): C is the carry of the sum taken in the integers, V the signed overflow. -/
def flagsAdd (a b : Word) : Flags where
  n := (a + b).msb
  z := a + b == 0#32
  c := decide (2 ^ 32 ≤ a.toNat + b.toNat)
  v := a.msb == b.msb && (a + b).msb != a.msb

/-- The flags of SUB (R158): C is "no borrow", V the signed overflow. -/
def flagsSub (a b : Word) : Flags where
  n := (a - b).msb
  z := a - b == 0#32
  c := decide (b.toNat ≤ a.toNat)
  v := a.msb != b.msb && (a - b).msb != a.msb

/-- A logical or multiply result: N and Z on request (R162). -/
def aluLogical (r : Word) (update : Bool) (f : Flags) : AluResult := ⟨r, if update then flagsNZ f r else f⟩

/-- AND (R152). -/
def aluAnd (a b : Word) (update : Bool) (f : Flags) : AluResult := aluLogical (a &&& b) update f

/-- EOR (R153). -/
def aluEor (a b : Word) (update : Bool) (f : Flags) : AluResult := aluLogical (a ^^^ b) update f

/-- ORR (R154). -/
def aluOrr (a b : Word) (update : Bool) (f : Flags) : AluResult := aluLogical (a ||| b) update f

/-- BIC: AND with the BITWISE complement (R155). -/
def aluBic (a b : Word) (update : Bool) (f : Flags) : AluResult := aluLogical (a &&& (0xFFFFFFFF#32 ^^^ b)) update f

/-- MOV: the operand; the left operand is not used (R156). -/
def aluMov (_a b : Word) (update : Bool) (f : Flags) : AluResult := aluLogical b update f

/-- ADD (R157). -/
def aluAdd (a b : Word) (update : Bool) (f : Flags) : AluResult := ⟨a + b, if update then flagsAdd a b else f⟩

/-- SUB (R158). -/
def aluSub (a b : Word) (update : Bool) (f : Flags) : AluResult := ⟨a - b, if update then flagsSub a b else f⟩

/-- CMP: the flags of SUB, always, and no result (R159). -/
def aluCmp (a b : Word) : Flags := (aluSub a b true ⟨false, false, false, false⟩).flags

/-- MUL (R160). -/
def aluMul (m s : Word) (update : Bool) (f : Flags) : AluResult := aluLogical (m * s) update f

/-- MLA (R161). -/
def aluMla (m s n : Word) (update : Bool) (f : Flags) : AluResult := aluLogical (m * s + n) update f

end Sys2Proof.Machine
end

