-- ==== Sys2Proof/Machine/DataProcessing.lean ====
section
/-! DEFINITION. The DataProcessing family (spec/42_data_processing.md): the handler's two effects, then one meaning per
row of the table. The eight undefined opcodes and the two reserved rows are in Sys2Proof/Machine/Undefined.lean. -/

namespace Sys2Proof.Machine

/-- The type of the ALU primitives a DataProcessing instruction calls (spec/41_alu.md R150). -/
abbrev AluOp := Word → Word → Bool → Flags → AluResult

/-- The effect of an instruction that writes a result: the primitive on `x[rn]` and operand2, flags on request, result
to rd (R170). All reads come before the writes (R186); register 15 is read and written raw (R175, R184). -/
def dpWrite (alu : AluOp) (upd : Bool) (rn rd : RegNo) (operand : Word) (s : State) : State :=
  let r := alu (s.reg rn) operand upd s.flags
  (s.setFlags r.flags).setReg rd r.value

/-- The effect of CMP: flags always, no register (R180). -/
def dpCompare (rn : RegNo) (operand : Word) (s : State) : State := s.setFlags (aluCmp (s.reg rn) operand)

/-- AND, rotated immediate (R176). -/
def execAndImm (cond : Cond) (upd : Bool) (rn rd : RegNo) (rotate : BitVec 4) (imm8 : BitVec 8) (s : State) :
    Host.Outcome State Fault Refusal :=
  whenPassed cond s (dpWrite aluAnd upd rn rd (operandImm rotate imm8))

/-- AND, register shifted by an immediate amount (R176). -/
def execAndShiftImm (cond : Cond) (upd : Bool) (rn rd : RegNo) (shamt : BitVec 5) (kind : ShiftKind) (rm : RegNo) (s : State) :
    Host.Outcome State Fault Refusal :=
  whenPassed cond s (dpWrite aluAnd upd rn rd (operandShiftImm s shamt kind rm))

/-- AND, register shifted by a register amount (R176). -/
def execAndShiftReg (cond : Cond) (upd : Bool) (rn rd rs : RegNo) (kind : ShiftKind) (rm : RegNo) (s : State) :
    Host.Outcome State Fault Refusal :=
  whenPassed cond s (dpWrite aluAnd upd rn rd (operandShiftReg s rs kind rm))

/-- EOR, rotated immediate (R177). -/
def execEorImm (cond : Cond) (upd : Bool) (rn rd : RegNo) (rotate : BitVec 4) (imm8 : BitVec 8) (s : State) :
    Host.Outcome State Fault Refusal :=
  whenPassed cond s (dpWrite aluEor upd rn rd (operandImm rotate imm8))

/-- EOR, register shifted by an immediate amount (R177). -/
def execEorShiftImm (cond : Cond) (upd : Bool) (rn rd : RegNo) (shamt : BitVec 5) (kind : ShiftKind) (rm : RegNo) (s : State) :
    Host.Outcome State Fault Refusal :=
  whenPassed cond s (dpWrite aluEor upd rn rd (operandShiftImm s shamt kind rm))

/-- EOR, register shifted by a register amount (R177). -/
def execEorShiftReg (cond : Cond) (upd : Bool) (rn rd rs : RegNo) (kind : ShiftKind) (rm : RegNo) (s : State) :
    Host.Outcome State Fault Refusal :=
  whenPassed cond s (dpWrite aluEor upd rn rd (operandShiftReg s rs kind rm))

/-- SUB, rotated immediate (R178). -/
def execSubImm (cond : Cond) (upd : Bool) (rn rd : RegNo) (rotate : BitVec 4) (imm8 : BitVec 8) (s : State) :
    Host.Outcome State Fault Refusal :=
  whenPassed cond s (dpWrite aluSub upd rn rd (operandImm rotate imm8))

/-- SUB, register shifted by an immediate amount (R178). -/
def execSubShiftImm (cond : Cond) (upd : Bool) (rn rd : RegNo) (shamt : BitVec 5) (kind : ShiftKind) (rm : RegNo) (s : State) :
    Host.Outcome State Fault Refusal :=
  whenPassed cond s (dpWrite aluSub upd rn rd (operandShiftImm s shamt kind rm))

/-- SUB, register shifted by a register amount (R178). -/
def execSubShiftReg (cond : Cond) (upd : Bool) (rn rd rs : RegNo) (kind : ShiftKind) (rm : RegNo) (s : State) :
    Host.Outcome State Fault Refusal :=
  whenPassed cond s (dpWrite aluSub upd rn rd (operandShiftReg s rs kind rm))

/-- ADD, rotated immediate (R179). -/
def execAddImm (cond : Cond) (upd : Bool) (rn rd : RegNo) (rotate : BitVec 4) (imm8 : BitVec 8) (s : State) :
    Host.Outcome State Fault Refusal :=
  whenPassed cond s (dpWrite aluAdd upd rn rd (operandImm rotate imm8))

/-- ADD, register shifted by an immediate amount (R179). -/
def execAddShiftImm (cond : Cond) (upd : Bool) (rn rd : RegNo) (shamt : BitVec 5) (kind : ShiftKind) (rm : RegNo) (s : State) :
    Host.Outcome State Fault Refusal :=
  whenPassed cond s (dpWrite aluAdd upd rn rd (operandShiftImm s shamt kind rm))

/-- ADD, register shifted by a register amount (R179). -/
def execAddShiftReg (cond : Cond) (upd : Bool) (rn rd rs : RegNo) (kind : ShiftKind) (rm : RegNo) (s : State) :
    Host.Outcome State Fault Refusal :=
  whenPassed cond s (dpWrite aluAdd upd rn rd (operandShiftReg s rs kind rm))

/-- CMP, rotated immediate (R180). S and rd are ignored. -/
def execCmpImm (cond : Cond) (_upd : Bool) (rn _rd : RegNo) (rotate : BitVec 4) (imm8 : BitVec 8) (s : State) :
    Host.Outcome State Fault Refusal :=
  whenPassed cond s (dpCompare rn (operandImm rotate imm8))

/-- CMP, register shifted by an immediate amount (R180). S and rd are ignored. -/
def execCmpShiftImm (cond : Cond) (_upd : Bool) (rn _rd : RegNo) (shamt : BitVec 5) (kind : ShiftKind) (rm : RegNo) (s : State) :
    Host.Outcome State Fault Refusal :=
  whenPassed cond s (dpCompare rn (operandShiftImm s shamt kind rm))

/-- CMP, register shifted by a register amount (R180). S and rd are ignored. -/
def execCmpShiftReg (cond : Cond) (_upd : Bool) (rn _rd rs : RegNo) (kind : ShiftKind) (rm : RegNo) (s : State) :
    Host.Outcome State Fault Refusal :=
  whenPassed cond s (dpCompare rn (operandShiftReg s rs kind rm))

/-- ORR, rotated immediate (R181). -/
def execOrrImm (cond : Cond) (upd : Bool) (rn rd : RegNo) (rotate : BitVec 4) (imm8 : BitVec 8) (s : State) :
    Host.Outcome State Fault Refusal :=
  whenPassed cond s (dpWrite aluOrr upd rn rd (operandImm rotate imm8))

/-- ORR, register shifted by an immediate amount (R181). -/
def execOrrShiftImm (cond : Cond) (upd : Bool) (rn rd : RegNo) (shamt : BitVec 5) (kind : ShiftKind) (rm : RegNo) (s : State) :
    Host.Outcome State Fault Refusal :=
  whenPassed cond s (dpWrite aluOrr upd rn rd (operandShiftImm s shamt kind rm))

/-- ORR, register shifted by a register amount (R181). -/
def execOrrShiftReg (cond : Cond) (upd : Bool) (rn rd rs : RegNo) (kind : ShiftKind) (rm : RegNo) (s : State) :
    Host.Outcome State Fault Refusal :=
  whenPassed cond s (dpWrite aluOrr upd rn rd (operandShiftReg s rs kind rm))

/-- MOV, rotated immediate (R182). rn is ignored. -/
def execMovImm (cond : Cond) (upd : Bool) (rn rd : RegNo) (rotate : BitVec 4) (imm8 : BitVec 8) (s : State) :
    Host.Outcome State Fault Refusal :=
  whenPassed cond s (dpWrite aluMov upd rn rd (operandImm rotate imm8))

/-- MOV, register shifted by an immediate amount (R182). rn is ignored. -/
def execMovShiftImm (cond : Cond) (upd : Bool) (rn rd : RegNo) (shamt : BitVec 5) (kind : ShiftKind) (rm : RegNo) (s : State) :
    Host.Outcome State Fault Refusal :=
  whenPassed cond s (dpWrite aluMov upd rn rd (operandShiftImm s shamt kind rm))

/-- MOV, register shifted by a register amount (R182). rn is ignored. -/
def execMovShiftReg (cond : Cond) (upd : Bool) (rn rd rs : RegNo) (kind : ShiftKind) (rm : RegNo) (s : State) :
    Host.Outcome State Fault Refusal :=
  whenPassed cond s (dpWrite aluMov upd rn rd (operandShiftReg s rs kind rm))

/-- BIC, rotated immediate (R183). -/
def execBicImm (cond : Cond) (upd : Bool) (rn rd : RegNo) (rotate : BitVec 4) (imm8 : BitVec 8) (s : State) :
    Host.Outcome State Fault Refusal :=
  whenPassed cond s (dpWrite aluBic upd rn rd (operandImm rotate imm8))

/-- BIC, register shifted by an immediate amount (R183). -/
def execBicShiftImm (cond : Cond) (upd : Bool) (rn rd : RegNo) (shamt : BitVec 5) (kind : ShiftKind) (rm : RegNo) (s : State) :
    Host.Outcome State Fault Refusal :=
  whenPassed cond s (dpWrite aluBic upd rn rd (operandShiftImm s shamt kind rm))

/-- BIC, register shifted by a register amount (R183). -/
def execBicShiftReg (cond : Cond) (upd : Bool) (rn rd rs : RegNo) (kind : ShiftKind) (rm : RegNo) (s : State) :
    Host.Outcome State Fault Refusal :=
  whenPassed cond s (dpWrite aluBic upd rn rd (operandShiftReg s rs kind rm))

end Sys2Proof.Machine
end

