-- ==== Sys2Proof/Machine/LoadStore.lean ====
section
/-! DEFINITION. The LoadStore family (spec/45_load_store.md): the handler's two effects, the refusal of R241, then one
meaning per row of the table. -/

namespace Sys2Proof.Machine

/-- The effect of a load (R230, R238): read a word at the access address, update the base by the variant, write rd. The
registers are all read before the access (R240). -/
def loadEffect (mode : AddrMode) (up : Bool) (rn rd : RegNo) (offset : Word) (s : State) : State :=
  let r := readWord s (accessAddr s mode up rn offset)
  (r.2.updateBase mode rn (appliedAddr s up rn offset)).setReg rd (loadedValue rd r.1)

/-- The effect of a store (R230, R239): write ONE byte, the low byte of rd, at the access address, then update the base
by the variant. -/
def storeEffect (mode : AddrMode) (up : Bool) (rn rd : RegNo) (offset : Word) (s : State) : State :=
  (s.memWrite (accessAddr s mode up rn offset) 1 (s.reg rd)).updateBase mode rn (appliedAddr s up rn offset)

/-- A form with base update whose rd equals rn is reserved, whatever its condition (R241, R230); every other one is
gated as usual. -/
def unlessReserved (mode : AddrMode) (cond : Cond) (rn rd : RegNo) (s : State) (effect : State → State) :
    Host.Outcome State Fault Refusal :=
  if updatesBase mode && rn == rd then .refused .reservedBaseUpdate else whenPassed cond s effect

/-- LDR, immediate offset, offset variant (R238, R234). Bit 22 is ignored (R242). -/
def execLdrImmOffset (cond : Cond) (up _b22 : Bool) (rn rd : RegNo) (imm12 : BitVec 12) (s : State) :
    Host.Outcome State Fault Refusal :=
  whenPassed cond s (loadEffect .offset up rn rd (offsetImm imm12))

/-- LDR, immediate offset, pre-indexed (R238, R235). Bit 22 is ignored (R242). -/
def execLdrImmPre (cond : Cond) (up _b22 : Bool) (rn rd : RegNo) (imm12 : BitVec 12) (s : State) :
    Host.Outcome State Fault Refusal :=
  unlessReserved .preIndexed cond rn rd s (loadEffect .preIndexed up rn rd (offsetImm imm12))

/-- LDR, immediate offset, post-indexed (R238, R236). Bit 22 is ignored (R242). -/
def execLdrImmPost (cond : Cond) (up _b22 : Bool) (rn rd : RegNo) (imm12 : BitVec 12) (s : State) :
    Host.Outcome State Fault Refusal :=
  unlessReserved .postIndexed cond rn rd s (loadEffect .postIndexed up rn rd (offsetImm imm12))

/-- LDR, register offset, offset variant (R238, R234). Bit 22 is ignored (R242). -/
def execLdrRegOffset (cond : Cond) (up _b22 : Bool) (rn rd : RegNo) (rm : RegNo) (s : State) :
    Host.Outcome State Fault Refusal :=
  whenPassed cond s (loadEffect .offset up rn rd (offsetOfReg s rm))

/-- LDR, register offset, pre-indexed (R238, R235). Bit 22 is ignored (R242). -/
def execLdrRegPre (cond : Cond) (up _b22 : Bool) (rn rd : RegNo) (rm : RegNo) (s : State) :
    Host.Outcome State Fault Refusal :=
  unlessReserved .preIndexed cond rn rd s (loadEffect .preIndexed up rn rd (offsetOfReg s rm))

/-- LDR, register offset, post-indexed (R238, R236). Bit 22 is ignored (R242). -/
def execLdrRegPost (cond : Cond) (up _b22 : Bool) (rn rd : RegNo) (rm : RegNo) (s : State) :
    Host.Outcome State Fault Refusal :=
  unlessReserved .postIndexed cond rn rd s (loadEffect .postIndexed up rn rd (offsetOfReg s rm))

/-- STR, immediate offset, offset variant (R239, R234). Bit 22 is ignored (R242). -/
def execStrImmOffset (cond : Cond) (up _b22 : Bool) (rn rd : RegNo) (imm12 : BitVec 12) (s : State) :
    Host.Outcome State Fault Refusal :=
  whenPassed cond s (storeEffect .offset up rn rd (offsetImm imm12))

/-- STR, immediate offset, pre-indexed (R239, R235). Bit 22 is ignored (R242). -/
def execStrImmPre (cond : Cond) (up _b22 : Bool) (rn rd : RegNo) (imm12 : BitVec 12) (s : State) :
    Host.Outcome State Fault Refusal :=
  unlessReserved .preIndexed cond rn rd s (storeEffect .preIndexed up rn rd (offsetImm imm12))

/-- STR, immediate offset, post-indexed (R239, R236). Bit 22 is ignored (R242). -/
def execStrImmPost (cond : Cond) (up _b22 : Bool) (rn rd : RegNo) (imm12 : BitVec 12) (s : State) :
    Host.Outcome State Fault Refusal :=
  unlessReserved .postIndexed cond rn rd s (storeEffect .postIndexed up rn rd (offsetImm imm12))

/-- STR, register offset, offset variant (R239, R234). Bit 22 is ignored (R242). -/
def execStrRegOffset (cond : Cond) (up _b22 : Bool) (rn rd : RegNo) (rm : RegNo) (s : State) :
    Host.Outcome State Fault Refusal :=
  whenPassed cond s (storeEffect .offset up rn rd (offsetOfReg s rm))

/-- STR, register offset, pre-indexed (R239, R235). Bit 22 is ignored (R242). -/
def execStrRegPre (cond : Cond) (up _b22 : Bool) (rn rd : RegNo) (rm : RegNo) (s : State) :
    Host.Outcome State Fault Refusal :=
  unlessReserved .preIndexed cond rn rd s (storeEffect .preIndexed up rn rd (offsetOfReg s rm))

/-- STR, register offset, post-indexed (R239, R236). Bit 22 is ignored (R242). -/
def execStrRegPost (cond : Cond) (up _b22 : Bool) (rn rd : RegNo) (rm : RegNo) (s : State) :
    Host.Outcome State Fault Refusal :=
  unlessReserved .postIndexed cond rn rd s (storeEffect .postIndexed up rn rd (offsetOfReg s rm))

end Sys2Proof.Machine
end

