-- ==== Sys2Proof/Machine/Multiply.lean ====
section
/-! DEFINITION. The Multiply family (spec/43_multiply.md). -/

namespace Sys2Proof.Machine

/-- The effect of a multiply: flags on request, result to rd; all reads come before the writes (R210). -/
def mulWrite (rd : RegNo) (r : AluResult) (s : State) : State := (s.setFlags r.flags).setReg rd r.value

/-- MUL (R211): bits 25:22 and the rn field are not read (R214). -/
def execMul (cond : Cond) (_ign : BitVec 4) (upd : Bool) (rd _rn rs rm : RegNo) (s : State) :
    Host.Outcome State Fault Refusal :=
  whenPassed cond s (mulWrite rd (aluMul (s.reg rm) (s.reg rs) upd s.flags))

/-- MLA (R212): bits 25:22 are not read (R214). -/
def execMla (cond : Cond) (_ign : BitVec 4) (upd : Bool) (rd rn rs rm : RegNo) (s : State) :
    Host.Outcome State Fault Refusal :=
  whenPassed cond s (mulWrite rd (aluMla (s.reg rm) (s.reg rs) (s.reg rn) upd s.flags))

end Sys2Proof.Machine
end

