-- ==== Sys2Proof/Machine/SoftwareInterrupt.lean ====
section
/-! DEFINITION. The SoftwareInterrupt family (spec/46_software_interrupt.md): requests to the host, no trap. Every service
is gated by the condition (R265). -/

namespace Sys2Proof.Machine

/-- SWI 0: halt (R261). -/
def execSwiHalt (cond : Cond) (s : State) : Host.Outcome State Fault Refusal := whenPassed cond s State.halt

/-- SWI 1: emit DumpRegisters with all sixteen registers as they are during the instruction (R262). -/
def execSwiDumpRegisters (cond : Cond) (s : State) : Host.Outcome State Fault Refusal :=
  whenPassed cond s fun s => s.emit (.dumpRegisters s.regs)

/-- SWI 2: emit PrintR0 with register 0 (R263). -/
def execSwiPrintR0 (cond : Cond) (s : State) : Host.Outcome State Fault Refusal :=
  whenPassed cond s fun s => s.emit (.printR0 (s.reg 0))

/-- Every other service: no operation (R264). -/
def execSwiOther (cond : Cond) (_service : BitVec 24) (s : State) : Host.Outcome State Fault Refusal :=
  whenPassed cond s id

end Sys2Proof.Machine
end

