-- ==== Sys2Proof/Machine/Undefined.lean ====
section
/-! DEFINITION. Words without an instruction behind them: undefined data-processing opcodes and Unknown words, which have
a defined effect (spec/47_unknown_undefined.md), and the reserved encodings, which have none
(spec/93_implementation_defined.md U1 to U4) and are refused whatever their condition (spec/42_data_processing.md R188). -/

namespace Sys2Proof.Machine

/-- The warning of an undefined opcode and no other effect (R271): emitted when the condition passes, and also when it
fails if WARN_GATED is false. -/
def warnUndefined (cond : Cond) (s : State) : Host.Outcome State Fault Refusal :=
  .next (if conditionPassed cond s.flags || !s.params.warnGated then s.emit .undefinedOpcodeWarning else s)

/-- An Unknown word is skipped: nothing changes, nothing is emitted, the condition is not looked at (R270). -/
def skip (s : State) : Host.Outcome State Fault Refusal := .next s

/-- Undefined opcode 0011 (R271). -/
def execUndef0011 (cond : Cond) (_imm : Bool) (_rest : BitVec 21) (s : State) : Host.Outcome State Fault Refusal :=
  warnUndefined cond s

/-- Undefined opcode 0101 (R271). -/
def execUndef0101 (cond : Cond) (_imm : Bool) (_rest : BitVec 21) (s : State) : Host.Outcome State Fault Refusal :=
  warnUndefined cond s

/-- Undefined opcode 0110 (R271). -/
def execUndef0110 (cond : Cond) (_imm : Bool) (_rest : BitVec 21) (s : State) : Host.Outcome State Fault Refusal :=
  warnUndefined cond s

/-- Undefined opcode 0111 (R271). -/
def execUndef0111 (cond : Cond) (_imm : Bool) (_rest : BitVec 21) (s : State) : Host.Outcome State Fault Refusal :=
  warnUndefined cond s

/-- Undefined opcode 1000 (R271). -/
def execUndef1000 (cond : Cond) (_imm : Bool) (_rest : BitVec 21) (s : State) : Host.Outcome State Fault Refusal :=
  warnUndefined cond s

/-- Undefined opcode 1001 (R271). -/
def execUndef1001 (cond : Cond) (_imm : Bool) (_rest : BitVec 21) (s : State) : Host.Outcome State Fault Refusal :=
  warnUndefined cond s

/-- Undefined opcode 1011 (R271). -/
def execUndef1011 (cond : Cond) (_imm : Bool) (_rest : BitVec 21) (s : State) : Host.Outcome State Fault Refusal :=
  warnUndefined cond s

/-- Undefined opcode 1111 (R271). -/
def execUndef1111 (cond : Cond) (_imm : Bool) (_rest : BitVec 21) (s : State) : Host.Outcome State Fault Refusal :=
  warnUndefined cond s

/-- Unknown word of selector 10 (R270, R272). -/
def execUnknownSel10 (_top : BitVec 4) (_rest : BitVec 25) (s : State) : Host.Outcome State Fault Refusal := skip s

/-- Unknown word of selector 11 (R270, R272). -/
def execUnknownSel11 (_top : BitVec 4) (_sub : BitVec 2) (_rest : BitVec 24) (s : State) :
    Host.Outcome State Fault Refusal := skip s

/-- Reserved: shift kind 10 or 11 (spec/30_encoding.md R96 a; U1). -/
def execDpReservedShiftKind (_cond : Cond) (_hi : BitVec 18) (_lo : BitVec 6) (_s : State) :
    Host.Outcome State Fault Refusal := .refused .reservedShiftKind

/-- Reserved: register-specified shift with bit 7 set (spec/30_encoding.md R96 b; U2). -/
def execDpReservedBit7 (_cond : Cond) (_hi : BitVec 17) (_lo : BitVec 4) (_s : State) :
    Host.Outcome State Fault Refusal := .refused .reservedShiftBit7

/-- Reserved: LoadStore with P = 0 and W = 1 (spec/30_encoding.md R100 a; U3). -/
def execLsReservedP0W1 (_cond : Cond) (_imm : Bool) (_hi : BitVec 2) (_lo : BitVec 21) (_s : State) :
    Host.Outcome State Fault Refusal := .refused .reservedAddressing

/-- Reserved: LoadStore register offset with bits 11:4 not zero (spec/30_encoding.md R100 b; U4). -/
def execLsReservedShiftedOffset (_cond : Cond) (_rest : BitVec 25) (_s : State) :
    Host.Outcome State Fault Refusal := .refused .reservedShiftedOffset

end Sys2Proof.Machine
end

