-- ==== Sys2Proof/Machine/Dispatch.lean ====
section
/-! DEFINITION. One arm per instruction: each is one direct call of its meaning. The state an instruction executes in is
the one after the fetch and the advance, so `x[15]` holds the instruction's address plus 4 (spec/10_state.md R23). -/

namespace Sys2Proof.Machine

/-- The meaning of an instruction on the state it executes in. -/
def exec (i : Instr) (s : State) : Host.Outcome State Fault Refusal :=
  match i with
  | .mul cond ign upd rd rn rs rm => Sys2Proof.Machine.execMul cond ign upd rd rn rs rm s
  | .mla cond ign upd rd rn rs rm => Sys2Proof.Machine.execMla cond ign upd rd rn rs rm s
  | .dpReservedShiftKind cond hi lo => Sys2Proof.Machine.execDpReservedShiftKind cond hi lo s
  | .dpReservedBit7 cond hi lo => Sys2Proof.Machine.execDpReservedBit7 cond hi lo s
  | .andImm cond upd rn rd rotate imm8 => Sys2Proof.Machine.execAndImm cond upd rn rd rotate imm8 s
  | .andShiftImm cond upd rn rd shamt kind rm => Sys2Proof.Machine.execAndShiftImm cond upd rn rd shamt kind rm s
  | .andShiftReg cond upd rn rd rs kind rm => Sys2Proof.Machine.execAndShiftReg cond upd rn rd rs kind rm s
  | .eorImm cond upd rn rd rotate imm8 => Sys2Proof.Machine.execEorImm cond upd rn rd rotate imm8 s
  | .eorShiftImm cond upd rn rd shamt kind rm => Sys2Proof.Machine.execEorShiftImm cond upd rn rd shamt kind rm s
  | .eorShiftReg cond upd rn rd rs kind rm => Sys2Proof.Machine.execEorShiftReg cond upd rn rd rs kind rm s
  | .subImm cond upd rn rd rotate imm8 => Sys2Proof.Machine.execSubImm cond upd rn rd rotate imm8 s
  | .subShiftImm cond upd rn rd shamt kind rm => Sys2Proof.Machine.execSubShiftImm cond upd rn rd shamt kind rm s
  | .subShiftReg cond upd rn rd rs kind rm => Sys2Proof.Machine.execSubShiftReg cond upd rn rd rs kind rm s
  | .addImm cond upd rn rd rotate imm8 => Sys2Proof.Machine.execAddImm cond upd rn rd rotate imm8 s
  | .addShiftImm cond upd rn rd shamt kind rm => Sys2Proof.Machine.execAddShiftImm cond upd rn rd shamt kind rm s
  | .addShiftReg cond upd rn rd rs kind rm => Sys2Proof.Machine.execAddShiftReg cond upd rn rd rs kind rm s
  | .cmpImm cond upd rn rd rotate imm8 => Sys2Proof.Machine.execCmpImm cond upd rn rd rotate imm8 s
  | .cmpShiftImm cond upd rn rd shamt kind rm => Sys2Proof.Machine.execCmpShiftImm cond upd rn rd shamt kind rm s
  | .cmpShiftReg cond upd rn rd rs kind rm => Sys2Proof.Machine.execCmpShiftReg cond upd rn rd rs kind rm s
  | .orrImm cond upd rn rd rotate imm8 => Sys2Proof.Machine.execOrrImm cond upd rn rd rotate imm8 s
  | .orrShiftImm cond upd rn rd shamt kind rm => Sys2Proof.Machine.execOrrShiftImm cond upd rn rd shamt kind rm s
  | .orrShiftReg cond upd rn rd rs kind rm => Sys2Proof.Machine.execOrrShiftReg cond upd rn rd rs kind rm s
  | .movImm cond upd rn rd rotate imm8 => Sys2Proof.Machine.execMovImm cond upd rn rd rotate imm8 s
  | .movShiftImm cond upd rn rd shamt kind rm => Sys2Proof.Machine.execMovShiftImm cond upd rn rd shamt kind rm s
  | .movShiftReg cond upd rn rd rs kind rm => Sys2Proof.Machine.execMovShiftReg cond upd rn rd rs kind rm s
  | .bicImm cond upd rn rd rotate imm8 => Sys2Proof.Machine.execBicImm cond upd rn rd rotate imm8 s
  | .bicShiftImm cond upd rn rd shamt kind rm => Sys2Proof.Machine.execBicShiftImm cond upd rn rd shamt kind rm s
  | .bicShiftReg cond upd rn rd rs kind rm => Sys2Proof.Machine.execBicShiftReg cond upd rn rd rs kind rm s
  | .undef0011 cond imm rest => Sys2Proof.Machine.execUndef0011 cond imm rest s
  | .undef0101 cond imm rest => Sys2Proof.Machine.execUndef0101 cond imm rest s
  | .undef0110 cond imm rest => Sys2Proof.Machine.execUndef0110 cond imm rest s
  | .undef0111 cond imm rest => Sys2Proof.Machine.execUndef0111 cond imm rest s
  | .undef1000 cond imm rest => Sys2Proof.Machine.execUndef1000 cond imm rest s
  | .undef1001 cond imm rest => Sys2Proof.Machine.execUndef1001 cond imm rest s
  | .undef1011 cond imm rest => Sys2Proof.Machine.execUndef1011 cond imm rest s
  | .undef1111 cond imm rest => Sys2Proof.Machine.execUndef1111 cond imm rest s
  | .lsReservedP0W1 cond imm hi lo => Sys2Proof.Machine.execLsReservedP0W1 cond imm hi lo s
  | .ldrImmOffset cond up b22 rn rd imm12 => Sys2Proof.Machine.execLdrImmOffset cond up b22 rn rd imm12 s
  | .ldrImmPre cond up b22 rn rd imm12 => Sys2Proof.Machine.execLdrImmPre cond up b22 rn rd imm12 s
  | .ldrImmPost cond up b22 rn rd imm12 => Sys2Proof.Machine.execLdrImmPost cond up b22 rn rd imm12 s
  | .ldrRegOffset cond up b22 rn rd rm => Sys2Proof.Machine.execLdrRegOffset cond up b22 rn rd rm s
  | .ldrRegPre cond up b22 rn rd rm => Sys2Proof.Machine.execLdrRegPre cond up b22 rn rd rm s
  | .ldrRegPost cond up b22 rn rd rm => Sys2Proof.Machine.execLdrRegPost cond up b22 rn rd rm s
  | .strImmOffset cond up b22 rn rd imm12 => Sys2Proof.Machine.execStrImmOffset cond up b22 rn rd imm12 s
  | .strImmPre cond up b22 rn rd imm12 => Sys2Proof.Machine.execStrImmPre cond up b22 rn rd imm12 s
  | .strImmPost cond up b22 rn rd imm12 => Sys2Proof.Machine.execStrImmPost cond up b22 rn rd imm12 s
  | .strRegOffset cond up b22 rn rd rm => Sys2Proof.Machine.execStrRegOffset cond up b22 rn rd rm s
  | .strRegPre cond up b22 rn rd rm => Sys2Proof.Machine.execStrRegPre cond up b22 rn rd rm s
  | .strRegPost cond up b22 rn rd rm => Sys2Proof.Machine.execStrRegPost cond up b22 rn rd rm s
  | .lsReservedShiftedOffset cond rest => Sys2Proof.Machine.execLsReservedShiftedOffset cond rest s
  | .b cond imm24 => Sys2Proof.Machine.execB cond imm24 s
  | .bl cond imm24 => Sys2Proof.Machine.execBl cond imm24 s
  | .unknownSel10 top rest => Sys2Proof.Machine.execUnknownSel10 top rest s
  | .swiHalt cond => Sys2Proof.Machine.execSwiHalt cond s
  | .swiDumpRegisters cond => Sys2Proof.Machine.execSwiDumpRegisters cond s
  | .swiPrintR0 cond => Sys2Proof.Machine.execSwiPrintR0 cond s
  | .swiOther cond service => Sys2Proof.Machine.execSwiOther cond service s
  | .unknownSel11 top sub rest => Sys2Proof.Machine.execUnknownSel11 top sub rest s

end Sys2Proof.Machine
end

