-- ==== Sys2Proof/Machine/Step.lean ====
section
/-! DEFINITION. One step of the core (spec/40_step_and_condition.md R130, R134), and the host's hook that places the next
instruction. Both only call operations of the other files. -/

namespace Sys2Proof.Machine

/-- One step: fetch, advance, decode, execute (R130). A halted core takes no step: the state stays as it is (R134,
spec/10_state.md R32; log entry 1). -/
def step (s : State) : Host.Outcome State Fault Refusal :=
  if s.halted then .next s else exec (decodeWord (fetch s).1) (fetch s).2

/-- `s` with the instruction whose table bits are `w` stored where the next step fetches (log entry 3). -/
def State.withFetchWord (s : State) (nbits w : Nat) : State := placeWord s (tableWord nbits w)

end Sys2Proof.Machine
end

