-- ==== Sys2Proof/Machine/Boot.lean ====
section
/-! DEFINITION. What the loader leaves before the first step (spec/70_reset_and_hazards.md R300, R301): the parsed
`<address> <word>` pairs as the memory and the entry address of a reset. Parsing the program file is outside the
hardware (spec/00_scope.md R4). -/

namespace Sys2Proof.Machine

/-- INITIAL_MEMORY: each word stored least significant byte first, in the order of the pairs, so a later pair
overwrites an earlier one where they overlap (R301). -/
def loadImage (pairs : List (Word × Word)) : Memory := pairs.foldl (fun m p => memStore m p.1 4 p.2) []

/-- ENTRY_PC: the address of the first pair (R300, spec/90_conflicts.md C2). With no pair the spec gives none: the value
this model names (log entry 2). -/
def entryOfImage : List (Word × Word) → Word
  | [] => Config.entryPc
  | p :: _ => p.1

/-- The state after the reset that follows a load (R300, R301). -/
def boot (params : Params) (pairs : List (Word × Word)) : State :=
  State.resetWith params (entryOfImage pairs) (loadImage pairs)

end Sys2Proof.Machine
end

