-- ==== Sys2Proof/Machine/Trace.lean ====
section
/-! DEFINITION. What the core shows of itself: the snapshot and the "next instruction" decode result
(spec/10_state.md R35, spec/30_encoding.md R109, spec/40_step_and_condition.md R136). Nothing here gives a new state:
taking a snapshot changes nothing. -/

namespace Sys2Proof.Machine

/-- A read-only copy of the sixteen registers and the four flags (R35). -/
structure Snapshot where
  regs : Vector Word 16
  flags : Flags
deriving DecidableEq, Repr

/-- The snapshot of a state (R35). -/
def snapshot (s : State) : Snapshot := ⟨s.regs, s.flags⟩

/-- A byte as the trace display reads it; a never-written one is in random mode draw number `n` of the trace's own,
separate from the core's draws (R35; log entry 6). -/
def traceByte (s : State) (n : Nat) (addr : Word) : Byte :=
  match memLookup s.mem addr.toNat with
  | some b => b
  | none =>
    match s.params.fillMode with
    | .deterministic => 0#8
    | .random => Config.traceDraw n

/-- The word at `x[15]` as trace read number `t` reads it (R35). -/
def traceWord (s : State) (t : Nat) : Word :=
  wordOfBytes (traceByte s (4 * t) s.pc) (traceByte s (4 * t + 1) (s.pc + 1#32)) (traceByte s (4 * t + 2) (s.pc + 2#32))
    (traceByte s (4 * t + 3) (s.pc + 3#32))

/-- The decode result of the next instruction, read before the step (R35, R109). -/
def nextDecode (s : State) (t : Nat) : DecodeResult := decodeResult (traceWord s t)

end Sys2Proof.Machine
end

