-- ==== Sys2Proof/Pseudocode.lean ====
section
/-! DEFINITION. The spec's own pseudocode of the step and of the five handlers, transcribed on RAW WORDS, line by line:
spec/40_step_and_condition.md R130, spec/42_data_processing.md R170 to R173, spec/43_multiply.md R210,
spec/44_branch.md R220, spec/45_load_store.md R230 to R232, spec/46_software_interrupt.md R260. The machine does not use
it: it is what claims compare the decoder and the meanings with. `none` is "behaviour not defined (refuse)". -/

namespace Sys2Proof.Pseudocode

open Sys2Proof.Machine

/-- `ConditionPassed(w[31:28])` (R132, R133). -/
def condPassed (w : Word) (s : State) : Bool := conditionPassed (condOfBits (getBits w 28 4)) s.flags

/-- "w is reserved by rule R96": I = 0, and bit 6 is 1 or bits 7:4 are 1011. -/
def reservedOperand (w : Word) : Bool := !getBit w 25 && (getBit w 6 || getBits w 4 4 == 0b1011#4)

/-- "w is reserved by rule R233, R237 or R241". -/
def reservedLoadStore (w : Word) : Bool :=
  (getBit w 25 && getBits w 4 8 != 0#8) || (!getBit w 24 && getBit w 21) ||
    (getBit w 24 == getBit w 21 && getBits w 12 4 == getBits w 16 4)

/-- The opcodes without a handler (R92, R271). -/
def undefinedOpcode (opcode : BitVec 4) : Bool :=
  opcode == 0b0011#4 || opcode == 0b0101#4 || opcode == 0b0110#4 || opcode == 0b0111#4 || opcode == 0b1000#4 ||
    opcode == 0b1001#4 || opcode == 0b1011#4 || opcode == 0b1111#4

/-- `Operand2(w)` (R171 to R173). -/
def operand2 (w : Word) (s : State) : Word :=
  let m := s.reg (getReg w 0)
  let byImm := (getBits w 7 5).toNat
  let byReg := (getBits (s.reg (getReg w 8)) 0 8).toNat
  if getBit w 25 then ror32 ((getBits w 0 8).setWidth 32) (2 * (getBits w 8 4).toNat)
  else if !getBit w 4 then
    if byImm = 0 then m else if getBits w 5 2 = 0b00#2 then m <<< byImm else m >>> byImm
  else if byReg = 0 then m
  else if 32 ≤ byReg then 0#32
  else if getBits w 5 2 = 0b00#2 then m <<< byReg else m >>> byReg

/-- `r <- PRIMITIVE(...); x[rd] <- r`, the primitive's flags included. -/
def writeResult (rd : RegNo) (r : AluResult) (s : State) : State := (s.setFlags r.flags).setReg rd r.value

/-- `ExecDataProcessing(w)` (R170). -/
def execDataProcessing (w : Word) (s : State) : Option State :=
  let upd := getBit w 20
  let rd := getReg w 12
  let a := s.reg (getReg w 16)
  let b := operand2 w s
  if reservedOperand w then none
  else if !condPassed w s then some s
  else if undefinedOpcode (getBits w 21 4) then some (s.emit .undefinedOpcodeWarning)
  else
    match getBits w 21 4 with
    | 0b0000#4 => some (writeResult rd (aluAnd a b upd s.flags) s)
    | 0b0001#4 => some (writeResult rd (aluEor a b upd s.flags) s)
    | 0b0010#4 => some (writeResult rd (aluSub a b upd s.flags) s)
    | 0b0100#4 => some (writeResult rd (aluAdd a b upd s.flags) s)
    | 0b1010#4 => some (s.setFlags (aluCmp a b))
    | 0b1100#4 => some (writeResult rd (aluOrr a b upd s.flags) s)
    | 0b1101#4 => some (writeResult rd (aluMov a b upd s.flags) s)
    | _ => some (writeResult rd (aluBic a b upd s.flags) s)

/-- `ExecMultiply(w)` (R210). -/
def execMultiply (w : Word) (s : State) : Option State :=
  let upd := getBit w 20
  let rd := getReg w 16
  let rn := getReg w 12
  let rs := getReg w 8
  let rm := getReg w 0
  if !condPassed w s then some s
  else if getBit w 21 then some (writeResult rd (aluMla (s.reg rm) (s.reg rs) (s.reg rn) upd s.flags) s)
  else some (writeResult rd (aluMul (s.reg rm) (s.reg rs) upd s.flags) s)

/-- `ExecBranch(w)` (R220). -/
def execBranch (w : Word) (s : State) : Option State :=
  let disp := (getBits w 0 24).signExtend 32 * 4#32
  let next := s.reg 15
  if !condPassed w s then some s
  else if getBit w 24 then some ((s.setReg 14 next).setReg 15 (next + 4#32 + disp))
  else some (s.setReg 15 (next + 4#32 + disp))

/-- `Offset(w)` (R231, R232). -/
def offset (w : Word) (s : State) : Word :=
  if !getBit w 25 then (getBits w 0 12).setWidth 32
  else if getBits w 0 4 = 15#4 then s.reg 15 + 8#32
  else s.reg (getReg w 0)

/-- `ExecLoadStore(w)` (R230). -/
def execLoadStore (w : Word) (s : State) : Option State :=
  let p := getBit w 24
  let wb := getBit w 21
  let rn := getReg w 16
  let rd := getReg w 12
  let base := s.reg rn
  let applied := if getBit w 23 then base + offset w s else base - offset w s
  let addr := if p then applied else base
  let read := readWord s addr
  let v := if rd = 15 then read.1 &&& 0xFFFFFFFC#32 else read.1
  let accessed := if getBit w 20 then read.2 else s.memWrite addr 1 (s.reg rd)
  let pre := if p && wb then accessed.setReg rn applied else accessed
  let post := if !p && !wb then pre.setReg rn applied else pre
  if reservedLoadStore w then none
  else if !condPassed w s then some s
  else if getBit w 20 then some (post.setReg rd v)
  else some post

/-- `ExecSoftwareInterrupt(w)` (R260). -/
def execSoftwareInterrupt (w : Word) (s : State) : Option State :=
  if !condPassed w s then some s
  else
    match getBits w 0 24 with
    | 0#24 => some s.halt
    | 1#24 => some (s.emit (.dumpRegisters s.regs))
    | 2#24 => some (s.emit (.printR0 (s.reg 0)))
    | _ => some s

/-- The dispatch of R130. -/
def dispatch (w : Word) (s : State) : Option State :=
  match classify w with
  | .dataProcessing => execDataProcessing w s
  | .multiply => execMultiply w s
  | .branch => execBranch w s
  | .loadStore => execLoadStore w s
  | .softwareInterrupt => execSoftwareInterrupt w s
  | .unknown => some s

/-- `step` when `halted` is false (R130): fetch, advance, dispatch. -/
def step (s : State) : Option State :=
  let w := (readWord s (s.reg 15)).1
  let advanced := (readWord s (s.reg 15)).2.setReg 15 (s.reg 15 + 4#32)
  dispatch w advanced

end Sys2Proof.Pseudocode
end

