-- ==== Sys2Proof/Safety.lean ====
section
/-! DEFINITION. What counts as a safe state and a safe step, and the words the claims use: what an instruction leaves
unchanged, what it completes with, and which instructions may do what. -/

namespace Sys2Proof.Safety

open Sys2Proof.Machine

/-- The invariant of every reachable state: the memory keeps its canonical form. Every other combination of field
values is a state of the core (spec/40_step_and_condition.md R138 says so of the flags). -/
abbrev Inv (s : State) : Prop := s.mem.wf

/-- What a run goes through: the states reached by steps. -/
inductive Reaches : State → State → Prop where
  | refl (s : State) : Reaches s s
  | step {s t u : State} (first : Sys2Proof.Machine.step s = .next t) (rest : Reaches t u) : Reaches s u

/-- Every byte of memory reads as before, and so does whether it was ever written. -/
def SameBytes (s t : State) : Prop := ∀ a, memLookup t.mem a = memLookup s.mem a

/-- Only the byte at `addr` changed: it is written and holds `b`. -/
def OneByteStored (s t : State) (addr : Word) (b : Byte) : Prop :=
  memLookup t.mem addr.toNat = some b ∧ ∀ a, a ≠ addr.toNat → memLookup t.mem a = memLookup s.mem a

/-- The latch, the outputs, the draw counter and the parameters are as before. -/
def SameControl (s t : State) : Prop :=
  t.halted = s.halted ∧ t.diag = s.diag ∧ t.draws = s.draws ∧ t.params = s.params

/-- Every register but `rd` is as before. -/
def SameRegsBut (rd : RegNo) (s t : State) : Prop := ∀ r, r ≠ rd → t.reg r = s.reg r

/-- `i` completes with `v` in `rd` and the flags `f`, and changes nothing else. -/
def CompletesWith (i : Instr) (s : State) (rd : RegNo) (v : Word) (f : Flags) : Prop :=
  ∃ t, exec i s = .next t ∧ t.reg rd = v ∧ SameRegsBut rd s t ∧ t.flags = f ∧ SameBytes s t ∧ SameControl s t

/-- N and Z of a result on request, C and V as they were (spec/41_alu.md R151, R162). -/
def logicalFlags (upd : Bool) (f : Flags) (r : Word) : Flags :=
  if upd then { n := r.getLsbD 31, z := decide (r = 0#32), c := f.c, v := f.v } else f

/-- The flags of an addition (spec/41_alu.md R157). -/
def additionFlags (a b : Word) : Flags where
  n := (a + b).getLsbD 31
  z := decide (a + b = 0#32)
  c := decide (2 ^ 32 ≤ a.toNat + b.toNat)
  v := a.getLsbD 31 == b.getLsbD 31 && (a + b).getLsbD 31 != a.getLsbD 31

/-- The flags of a subtraction (spec/41_alu.md R158). -/
def subtractionFlags (a b : Word) : Flags where
  n := (a - b).getLsbD 31
  z := decide (a - b = 0#32)
  c := decide (b.toNat ≤ a.toNat)
  v := a.getLsbD 31 != b.getLsbD 31 && (a - b).getLsbD 31 != a.getLsbD 31

/-- What the pseudocode says is what the machine does; "refuse" is a refusal of some name. -/
def AgreesWith (o : Host.Outcome State Fault Refusal) : Option State → Prop
  | some t => o = .next t
  | none => ∃ r, o = .refused r

/-- The state with another value in C, the flag no condition reads (spec/10_state.md R29). -/
def withCarry (s : State) (c : Bool) : State := { s with flags := { s.flags with c := c } }

/-- The state with another record of the outputs so far. -/
def withDiag (s : State) (d : List DiagRecord) : State := { s with diag := d }

/-- The words the spec reserves: rules R96 and R100 (a), (b), (c) of spec/30_encoding.md, by bits. -/
def reservedWord (w : Word) : Bool :=
  (classify w == .dataProcessing && Pseudocode.reservedOperand w) ||
    (classify w == .loadStore && Pseudocode.reservedLoadStore w)

/-! Which instructions may do what -/

/-- Instructions that may write a flag: CMP, and the ALU instructions with the update-flags bit (spec/10_state.md R28). -/
def mayWriteFlags : Instr → Bool
  | .mul _ _ upd _ _ _ _ => upd
  | .mla _ _ upd _ _ _ _ => upd
  | .dpReservedShiftKind _ _ _ => false
  | .dpReservedBit7 _ _ _ => false
  | .andImm _ upd _ _ _ _ => upd
  | .andShiftImm _ upd _ _ _ _ _ => upd
  | .andShiftReg _ upd _ _ _ _ _ => upd
  | .eorImm _ upd _ _ _ _ => upd
  | .eorShiftImm _ upd _ _ _ _ _ => upd
  | .eorShiftReg _ upd _ _ _ _ _ => upd
  | .subImm _ upd _ _ _ _ => upd
  | .subShiftImm _ upd _ _ _ _ _ => upd
  | .subShiftReg _ upd _ _ _ _ _ => upd
  | .addImm _ upd _ _ _ _ => upd
  | .addShiftImm _ upd _ _ _ _ _ => upd
  | .addShiftReg _ upd _ _ _ _ _ => upd
  | .cmpImm _ _ _ _ _ _ => true
  | .cmpShiftImm _ _ _ _ _ _ _ => true
  | .cmpShiftReg _ _ _ _ _ _ _ => true
  | .orrImm _ upd _ _ _ _ => upd
  | .orrShiftImm _ upd _ _ _ _ _ => upd
  | .orrShiftReg _ upd _ _ _ _ _ => upd
  | .movImm _ upd _ _ _ _ => upd
  | .movShiftImm _ upd _ _ _ _ _ => upd
  | .movShiftReg _ upd _ _ _ _ _ => upd
  | .bicImm _ upd _ _ _ _ => upd
  | .bicShiftImm _ upd _ _ _ _ _ => upd
  | .bicShiftReg _ upd _ _ _ _ _ => upd
  | .undef0011 _ _ _ => false
  | .undef0101 _ _ _ => false
  | .undef0110 _ _ _ => false
  | .undef0111 _ _ _ => false
  | .undef1000 _ _ _ => false
  | .undef1001 _ _ _ => false
  | .undef1011 _ _ _ => false
  | .undef1111 _ _ _ => false
  | .lsReservedP0W1 _ _ _ _ => false
  | .ldrImmOffset _ _ _ _ _ _ => false
  | .ldrImmPre _ _ _ _ _ _ => false
  | .ldrImmPost _ _ _ _ _ _ => false
  | .ldrRegOffset _ _ _ _ _ _ => false
  | .ldrRegPre _ _ _ _ _ _ => false
  | .ldrRegPost _ _ _ _ _ _ => false
  | .strImmOffset _ _ _ _ _ _ => false
  | .strImmPre _ _ _ _ _ _ => false
  | .strImmPost _ _ _ _ _ _ => false
  | .strRegOffset _ _ _ _ _ _ => false
  | .strRegPre _ _ _ _ _ _ => false
  | .strRegPost _ _ _ _ _ _ => false
  | .lsReservedShiftedOffset _ _ => false
  | .b _ _ => false
  | .bl _ _ => false
  | .unknownSel10 _ _ => false
  | .swiHalt _ => false
  | .swiDumpRegisters _ => false
  | .swiPrintR0 _ => false
  | .swiOther _ _ => false
  | .unknownSel11 _ _ _ => false

/-- Instructions that may write C or V: ADD and SUB with the update-flags bit, CMP (spec/10_state.md R28). -/
def mayWriteCarryOverflow : Instr → Bool
  | .mul _ _ _ _ _ _ _ => false
  | .mla _ _ _ _ _ _ _ => false
  | .dpReservedShiftKind _ _ _ => false
  | .dpReservedBit7 _ _ _ => false
  | .andImm _ _ _ _ _ _ => false
  | .andShiftImm _ _ _ _ _ _ _ => false
  | .andShiftReg _ _ _ _ _ _ _ => false
  | .eorImm _ _ _ _ _ _ => false
  | .eorShiftImm _ _ _ _ _ _ _ => false
  | .eorShiftReg _ _ _ _ _ _ _ => false
  | .subImm _ upd _ _ _ _ => upd
  | .subShiftImm _ upd _ _ _ _ _ => upd
  | .subShiftReg _ upd _ _ _ _ _ => upd
  | .addImm _ upd _ _ _ _ => upd
  | .addShiftImm _ upd _ _ _ _ _ => upd
  | .addShiftReg _ upd _ _ _ _ _ => upd
  | .cmpImm _ _ _ _ _ _ => true
  | .cmpShiftImm _ _ _ _ _ _ _ => true
  | .cmpShiftReg _ _ _ _ _ _ _ => true
  | .orrImm _ _ _ _ _ _ => false
  | .orrShiftImm _ _ _ _ _ _ _ => false
  | .orrShiftReg _ _ _ _ _ _ _ => false
  | .movImm _ _ _ _ _ _ => false
  | .movShiftImm _ _ _ _ _ _ _ => false
  | .movShiftReg _ _ _ _ _ _ _ => false
  | .bicImm _ _ _ _ _ _ => false
  | .bicShiftImm _ _ _ _ _ _ _ => false
  | .bicShiftReg _ _ _ _ _ _ _ => false
  | .undef0011 _ _ _ => false
  | .undef0101 _ _ _ => false
  | .undef0110 _ _ _ => false
  | .undef0111 _ _ _ => false
  | .undef1000 _ _ _ => false
  | .undef1001 _ _ _ => false
  | .undef1011 _ _ _ => false
  | .undef1111 _ _ _ => false
  | .lsReservedP0W1 _ _ _ _ => false
  | .ldrImmOffset _ _ _ _ _ _ => false
  | .ldrImmPre _ _ _ _ _ _ => false
  | .ldrImmPost _ _ _ _ _ _ => false
  | .ldrRegOffset _ _ _ _ _ _ => false
  | .ldrRegPre _ _ _ _ _ _ => false
  | .ldrRegPost _ _ _ _ _ _ => false
  | .strImmOffset _ _ _ _ _ _ => false
  | .strImmPre _ _ _ _ _ _ => false
  | .strImmPost _ _ _ _ _ _ => false
  | .strRegOffset _ _ _ _ _ _ => false
  | .strRegPre _ _ _ _ _ _ => false
  | .strRegPost _ _ _ _ _ _ => false
  | .lsReservedShiftedOffset _ _ => false
  | .b _ _ => false
  | .bl _ _ => false
  | .unknownSel10 _ _ => false
  | .swiHalt _ => false
  | .swiDumpRegisters _ => false
  | .swiPrintR0 _ => false
  | .swiOther _ _ => false
  | .unknownSel11 _ _ _ => false

/-- What an instruction stores when its condition passes: the address of the access and the low byte of rd, from the
state its meaning starts with, for the six forms of STR; nothing for any other (spec/20_memory.md R57,
spec/45_load_store.md R239). -/
def storeOf (s : State) : Instr → Option (Word × Byte)
  | .mul _ _ _ _ _ _ _ => none
  | .mla _ _ _ _ _ _ _ => none
  | .dpReservedShiftKind _ _ _ => none
  | .dpReservedBit7 _ _ _ => none
  | .andImm _ _ _ _ _ _ => none
  | .andShiftImm _ _ _ _ _ _ _ => none
  | .andShiftReg _ _ _ _ _ _ _ => none
  | .eorImm _ _ _ _ _ _ => none
  | .eorShiftImm _ _ _ _ _ _ _ => none
  | .eorShiftReg _ _ _ _ _ _ _ => none
  | .subImm _ _ _ _ _ _ => none
  | .subShiftImm _ _ _ _ _ _ _ => none
  | .subShiftReg _ _ _ _ _ _ _ => none
  | .addImm _ _ _ _ _ _ => none
  | .addShiftImm _ _ _ _ _ _ _ => none
  | .addShiftReg _ _ _ _ _ _ _ => none
  | .cmpImm _ _ _ _ _ _ => none
  | .cmpShiftImm _ _ _ _ _ _ _ => none
  | .cmpShiftReg _ _ _ _ _ _ _ => none
  | .orrImm _ _ _ _ _ _ => none
  | .orrShiftImm _ _ _ _ _ _ _ => none
  | .orrShiftReg _ _ _ _ _ _ _ => none
  | .movImm _ _ _ _ _ _ => none
  | .movShiftImm _ _ _ _ _ _ _ => none
  | .movShiftReg _ _ _ _ _ _ _ => none
  | .bicImm _ _ _ _ _ _ => none
  | .bicShiftImm _ _ _ _ _ _ _ => none
  | .bicShiftReg _ _ _ _ _ _ _ => none
  | .undef0011 _ _ _ => none
  | .undef0101 _ _ _ => none
  | .undef0110 _ _ _ => none
  | .undef0111 _ _ _ => none
  | .undef1000 _ _ _ => none
  | .undef1001 _ _ _ => none
  | .undef1011 _ _ _ => none
  | .undef1111 _ _ _ => none
  | .lsReservedP0W1 _ _ _ _ => none
  | .ldrImmOffset _ _ _ _ _ _ => none
  | .ldrImmPre _ _ _ _ _ _ => none
  | .ldrImmPost _ _ _ _ _ _ => none
  | .ldrRegOffset _ _ _ _ _ _ => none
  | .ldrRegPre _ _ _ _ _ _ => none
  | .ldrRegPost _ _ _ _ _ _ => none
  | .strImmOffset _ up _ rn rd imm12 =>
    some (accessAddr s .offset up rn (offsetImm imm12), (s.reg rd).setWidth 8)
  | .strImmPre _ up _ rn rd imm12 =>
    some (accessAddr s .preIndexed up rn (offsetImm imm12), (s.reg rd).setWidth 8)
  | .strImmPost _ up _ rn rd imm12 =>
    some (accessAddr s .postIndexed up rn (offsetImm imm12), (s.reg rd).setWidth 8)
  | .strRegOffset _ up _ rn rd rm =>
    some (accessAddr s .offset up rn (offsetOfReg s rm), (s.reg rd).setWidth 8)
  | .strRegPre _ up _ rn rd rm =>
    some (accessAddr s .preIndexed up rn (offsetOfReg s rm), (s.reg rd).setWidth 8)
  | .strRegPost _ up _ rn rd rm =>
    some (accessAddr s .postIndexed up rn (offsetOfReg s rm), (s.reg rd).setWidth 8)
  | .lsReservedShiftedOffset _ _ => none
  | .b _ _ => none
  | .bl _ _ => none
  | .unknownSel10 _ _ => none
  | .swiHalt _ => none
  | .swiDumpRegisters _ => none
  | .swiPrintR0 _ => none
  | .swiOther _ _ => none
  | .unknownSel11 _ _ _ => none

/-- The control transfers: branches, a result or a load into register 15, a base update of register 15
(spec/44_branch.md R225). -/
def mayTransferControl : Instr → Bool
  | .mul _ _ _ rd _ _ _ => rd == pcNum
  | .mla _ _ _ rd _ _ _ => rd == pcNum
  | .dpReservedShiftKind _ _ _ => false
  | .dpReservedBit7 _ _ _ => false
  | .andImm _ _ _ rd _ _ => rd == pcNum
  | .andShiftImm _ _ _ rd _ _ _ => rd == pcNum
  | .andShiftReg _ _ _ rd _ _ _ => rd == pcNum
  | .eorImm _ _ _ rd _ _ => rd == pcNum
  | .eorShiftImm _ _ _ rd _ _ _ => rd == pcNum
  | .eorShiftReg _ _ _ rd _ _ _ => rd == pcNum
  | .subImm _ _ _ rd _ _ => rd == pcNum
  | .subShiftImm _ _ _ rd _ _ _ => rd == pcNum
  | .subShiftReg _ _ _ rd _ _ _ => rd == pcNum
  | .addImm _ _ _ rd _ _ => rd == pcNum
  | .addShiftImm _ _ _ rd _ _ _ => rd == pcNum
  | .addShiftReg _ _ _ rd _ _ _ => rd == pcNum
  | .cmpImm _ _ _ _ _ _ => false
  | .cmpShiftImm _ _ _ _ _ _ _ => false
  | .cmpShiftReg _ _ _ _ _ _ _ => false
  | .orrImm _ _ _ rd _ _ => rd == pcNum
  | .orrShiftImm _ _ _ rd _ _ _ => rd == pcNum
  | .orrShiftReg _ _ _ rd _ _ _ => rd == pcNum
  | .movImm _ _ _ rd _ _ => rd == pcNum
  | .movShiftImm _ _ _ rd _ _ _ => rd == pcNum
  | .movShiftReg _ _ _ rd _ _ _ => rd == pcNum
  | .bicImm _ _ _ rd _ _ => rd == pcNum
  | .bicShiftImm _ _ _ rd _ _ _ => rd == pcNum
  | .bicShiftReg _ _ _ rd _ _ _ => rd == pcNum
  | .undef0011 _ _ _ => false
  | .undef0101 _ _ _ => false
  | .undef0110 _ _ _ => false
  | .undef0111 _ _ _ => false
  | .undef1000 _ _ _ => false
  | .undef1001 _ _ _ => false
  | .undef1011 _ _ _ => false
  | .undef1111 _ _ _ => false
  | .lsReservedP0W1 _ _ _ _ => false
  | .ldrImmOffset _ _ _ _ rd _ => rd == pcNum
  | .ldrImmPre _ _ _ rn rd _ => rd == pcNum || rn == pcNum
  | .ldrImmPost _ _ _ rn rd _ => rd == pcNum || rn == pcNum
  | .ldrRegOffset _ _ _ _ rd _ => rd == pcNum
  | .ldrRegPre _ _ _ rn rd _ => rd == pcNum || rn == pcNum
  | .ldrRegPost _ _ _ rn rd _ => rd == pcNum || rn == pcNum
  | .strImmOffset _ _ _ _ _ _ => false
  | .strImmPre _ _ _ rn _ _ => rn == pcNum
  | .strImmPost _ _ _ rn _ _ => rn == pcNum
  | .strRegOffset _ _ _ _ _ _ => false
  | .strRegPre _ _ _ rn _ _ => rn == pcNum
  | .strRegPost _ _ _ rn _ _ => rn == pcNum
  | .lsReservedShiftedOffset _ _ => false
  | .b _ _ => true
  | .bl _ _ => true
  | .unknownSel10 _ _ => false
  | .swiHalt _ => false
  | .swiDumpRegisters _ => false
  | .swiPrintR0 _ => false
  | .swiOther _ _ => false
  | .unknownSel11 _ _ _ => false

end Sys2Proof.Safety
end

