-- ==== Sys2Proof/Certificates/Slice0/Obligations.lean ====
section
/-! DEFINITION. The statements for the provers. Each docstring names the rule of spec/ it formalises. -/

open Sys2Proof Sys2Proof.Machine Sys2Proof.Safety

/-! Encoding -/

/-- Decode and encode agree: the word of a well-formed instruction is read back as that instruction, every field
included (the formats of spec/30_encoding.md; their bit positions are general knowledge by the spec's own mark,
decision D2, log entry 10). -/
def Obligations.DecodeOfEncode : Prop := ∀ i : Instr, i.wellFormed = true → decodeWord (encode i) = i

/-- No bit is dropped: every 32-bit word is the word of the instruction the decoder reads from it, ignored bits
included (R103, R105; log entry 12). -/
def Obligations.EncodeOfDecode : Prop := ∀ w : Word, encode (decodeWord w) = w

/-- The decoder answers only well-formed instructions, and their family is the classifier's (R86, R105). -/
def Obligations.DecodedIsWellFormed : Prop :=
  ∀ w : Word, (decodeWord w).wellFormed = true ∧ familyOf (decodeWord w) = classify w

/-- Sanity: words the spec spells out, at least one per family, decode to the instructions it says they are. -/
def Obligations.SpelledWordsDecode : Prop :=
  decodeWord 0xE3A00005#32 = .movImm .al false 0 0 0#4 5#8 ∧
  decodeWord 0xE0900001#32 = .addShiftImm .al true 0 0 0#5 .lsl 1 ∧
  decodeWord 0xE1A00231#32 = .movShiftReg .al false 0 0 2 .lsr 1 ∧
  decodeWord 0xE0231092#32 = .mla .al 0#4 false 3 1 0 2 ∧
  decodeWord 0xEB000001#32 = .bl .al 1#24 ∧
  decodeWord 0xE5112004#32 = .ldrImmOffset .al false false 1 2 4#12 ∧
  decodeWord 0xE4C10001#32 = .strImmPost .al true true 1 0 1#12 ∧
  decodeWord 0xE791200F#32 = .ldrRegOffset .al true false 1 2 15 ∧
  decodeWord 0xEF000000#32 = .swiHalt .al ∧
  decodeWord 0xE2600000#32 = .undef0011 .al true 0#21 ∧
  decodeWord 0xE8BD8000#32 = .unknownSel10 0b1110#4 0x0BD8000#25 ∧
  decodeWord 0xE1A00041#32 = .dpReservedShiftKind .al 0b110100000000000000#18 1#6

/-- An instruction is the next four bytes, least significant first, and the rest is left (R80; spec/20_memory.md
R53); with fewer than four bytes the decoder rejects by name (the model's choice, log entry 14). -/
def Obligations.BytesDecodeLittleEndian : Prop :=
  (∀ (w : Word) (rest : List Byte), decodeBytes (bytesOfWord w ++ rest) = .ok (decodeWord w, rest)) ∧
    ∀ bytes : List Byte, bytes.length < 4 → decodeBytes bytes = .error .truncated

/-- Field extraction (R81, R82): `get_bits(w, o, n) = floor(w / 2^o) mod 2^n`, the full width gives the word itself,
and `get_bit` is one bit. -/
def Obligations.FieldExtraction : Prop :=
  (∀ (w : Word) (o n : Nat), (getBits w o n).toNat = w.toNat / 2 ^ o % 2 ^ n) ∧ (∀ w : Word, getBits w 0 32 = w) ∧
    ∀ (w : Word) (n : Nat), getBit w n = w.getLsbD n

/-- The classifier (R86), by bits; that it looks at bits 27:24 and 7:4 only; and the Unknown class by the masks of
R272, which the spec marks as derived (that rule's count of words is not stated here). The selector values 01 and 10
are R85's, general knowledge by the spec's own mark (log entry 10). -/
def Obligations.ClassifierFollowsBits : Prop :=
  (∀ w : Word, classify w =
    if w.getLsbD 27 = false ∧ w.getLsbD 26 = false then
      if w.getLsbD 7 = true ∧ w.getLsbD 6 = false ∧ w.getLsbD 5 = false ∧ w.getLsbD 4 = true then .multiply
      else .dataProcessing
    else if w.getLsbD 27 = false then .loadStore
    else if w.getLsbD 26 = false then if w.getLsbD 25 = true then .branch else .unknown
    else if w.getLsbD 25 = true ∧ w.getLsbD 24 = true then .softwareInterrupt
    else .unknown) ∧
  (∀ w w' : Word, (∀ k, (24 ≤ k ∧ k ≤ 27) ∨ (4 ≤ k ∧ k ≤ 7) → w.getLsbD k = w'.getLsbD k) →
    classify w = classify w') ∧
  ∀ w : Word, classify w = .unknown ↔
    w &&& 0x0E000000#32 = 0x08000000#32 ∨
      (w &&& 0x0C000000#32 = 0x0C000000#32 ∧ w &&& 0x03000000#32 ≠ 0x03000000#32)

/-- The words the decoder gives to a reserved instruction, or to a load or store with base update and rd = rn, are
exactly those of R96 and R100 (the spec's decisions D11 to D15). -/
def Obligations.ReservedWordsByBits : Prop := ∀ w : Word, (decodeWord w).admitted = !reservedWord w

/-- Bits of R103 that no rule examines have no effect: two words that differ only in them behave alike. MUL bits
25:22 and rn, MLA bits 25:22, MOV rn, CMP rd and S, LoadStore bit 22 (the spec's decision D17, log entry 13), every
bit of an Unknown word that keeps it Unknown, and bits 25 and 20:0 of an undefined-opcode word wherever they leave
it one (neither a Multiply word nor reserved by R96). -/
def Obligations.IgnoredBitsHaveNoEffect : Prop :=
  ∀ (s : State) (cond : Cond) (upd upd' : Bool) (rd rd' rn rn' rs rm : RegNo) (kind : ShiftKind),
    (∀ ign ign', exec (decodeWord (encode (.mul cond ign upd rd rn rs rm))) s =
        exec (decodeWord (encode (.mul cond ign' upd rd rn' rs rm))) s ∧
      exec (decodeWord (encode (.mla cond ign upd rd rn rs rm))) s =
        exec (decodeWord (encode (.mla cond ign' upd rd rn rs rm))) s) ∧
    (∀ rotate imm8, immNotMultiply imm8 = true →
      exec (decodeWord (encode (.movImm cond upd rn rd rotate imm8))) s =
        exec (decodeWord (encode (.movImm cond upd rn' rd rotate imm8))) s ∧
      exec (decodeWord (encode (.cmpImm cond upd rn rd rotate imm8))) s =
        exec (decodeWord (encode (.cmpImm cond upd' rn rd' rotate imm8))) s) ∧
    (∀ shamt, exec (decodeWord (encode (.movShiftImm cond upd rn rd shamt kind rm))) s =
        exec (decodeWord (encode (.movShiftImm cond upd rn' rd shamt kind rm))) s ∧
      exec (decodeWord (encode (.cmpShiftImm cond upd rn rd shamt kind rm))) s =
        exec (decodeWord (encode (.cmpShiftImm cond upd' rn rd' shamt kind rm))) s) ∧
    exec (decodeWord (encode (.movShiftReg cond upd rn rd rs kind rm))) s =
      exec (decodeWord (encode (.movShiftReg cond upd rn' rd rs kind rm))) s ∧
    exec (decodeWord (encode (.cmpShiftReg cond upd rn rd rs kind rm))) s =
      exec (decodeWord (encode (.cmpShiftReg cond upd' rn rd' rs kind rm))) s ∧
    (∀ (up b22 b22' : Bool) (p wb l : Bool) (i : Bool) (offset : BitVec 12),
      exec (decodeWord (lsWord cond i p up b22 wb l rn rd offset)) s =
        exec (decodeWord (lsWord cond i p up b22' wb l rn rd offset)) s) ∧
    (∀ w w' : Word, classify w = .unknown → classify w' = .unknown → exec (decodeWord w) s = exec (decodeWord w') s) ∧
    ∀ (imm imm' : Bool) (rest rest' : BitVec 21),
      ∀ p ∈ [(Instr.undef0011 cond imm rest, Instr.undef0011 cond imm' rest'),
        (.undef0101 cond imm rest, .undef0101 cond imm' rest'), (.undef0110 cond imm rest, .undef0110 cond imm' rest'),
        (.undef0111 cond imm rest, .undef0111 cond imm' rest'), (.undef1000 cond imm rest, .undef1000 cond imm' rest'),
        (.undef1001 cond imm rest, .undef1001 cond imm' rest'), (.undef1011 cond imm rest, .undef1011 cond imm' rest'),
        (.undef1111 cond imm rest, .undef1111 cond imm' rest')],
      p.1.wellFormed = true → p.2.wellFormed = true →
        exec (decodeWord (encode p.1)) s = exec (decodeWord (encode p.2)) s

/-! The step and the gate -/

/-- A step runs the decoded instruction: when the four bytes at register 15 decode to `i`, the step is `exec i` on the
state with register 15 advanced by 4, and nothing else moved (R130; spec/10_state.md R23). -/
def Obligations.StepRunsDecoded : Prop :=
  ∀ (s : State) (i : Instr) (b0 b1 b2 b3 : Byte), s.halted = false →
    memLookup s.mem s.pc.toNat = some b0 → memLookup s.mem (s.pc + 1#32).toNat = some b1 →
    memLookup s.mem (s.pc + 2#32).toNat = some b2 → memLookup s.mem (s.pc + 3#32).toNat = some b3 →
    decodeBytes [b0, b1, b2, b3] = .ok (i, []) → step s = exec i (s.setReg pcNum (s.pc + 4#32))

/-- The whole machine follows the spec's pseudocode of the step (R130) and of its five handlers, with WARN_GATED
true as that pseudocode has it: from every state of a core that is not halted, decoder and meanings together compute
what the raw-word transcription of Sys2Proof/Pseudocode.lean computes, refusals included. -/
def Obligations.StepFollowsPseudocode : Prop :=
  ∀ s : State, s.halted = false → s.params.warnGated = true → AgreesWith (step s) (Pseudocode.step s)

/-- A halted core stays as it is, along any run (R134; that the model's step answers the same state there is its own
choice, log entry 1). -/
def Obligations.HaltedCoreStays : Prop := ∀ s t : State, s.halted = true → Reaches s t → t = s

/-- Fetch and advance (R23, R26): the word at register 15 is read, register 15 moves by 4 modulo 2^32; every other
register, the flags, the memory, the latch, the outputs and the parameters stay. -/
def Obligations.FetchAdvances : Prop :=
  ∀ s : State, (fetch s).1 = (readWord s s.pc).1 ∧ (fetch s).2.pc.toNat = (s.pc.toNat + 4) % 2 ^ 32 ∧
    SameRegsBut pcNum s (fetch s).2 ∧ (fetch s).2.flags = s.flags ∧ SameBytes s (fetch s).2 ∧
    (fetch s).2.halted = s.halted ∧ (fetch s).2.diag = s.diag ∧ (fetch s).2.params = s.params

/-- The host's hook (the model's own, log entry 3) stores an instruction where the next step fetches it and runs it,
also across the top of memory. -/
def Obligations.PlacedWordIsFetched : Prop :=
  ∀ (s : State) (nbits w : Nat), (fetch (s.withFetchWord nbits w)).1 = tableWord nbits w ∧
    step (s.withFetchWord nbits w) =
      exec (decodeWord (tableWord nbits w)) ((s.withFetchWord nbits w).setReg pcNum (s.pc + 4#32))

/-- The condition table (R133), on the numbers of the field (general knowledge by the spec's own mark in R102, log
entry 10). -/
def Obligations.ConditionTable : Prop :=
  ∀ (code : BitVec 4) (f : Flags), conditionPassed (condOfBits code) f =
    if code = 0b0000#4 then f.z
    else if code = 0b0100#4 then f.n
    else if code = 0b0101#4 then !f.n
    else if code = 0b1010#4 then decide (f.n = f.v)
    else if code = 0b1011#4 then decide (f.n ≠ f.v)
    else if code = 0b1100#4 then decide (f.z = false ∧ f.n = f.v)
    else if code = 0b1101#4 then decide (f.z = true ∨ f.n ≠ f.v)
    else true

/-- A failed condition suppresses every effect (R132; for SoftwareInterrupt the spec's decision D19): the step of a
word that is neither Unknown nor reserved only advances register 15. The one exception is the warning of an
undefined opcode when WARN_GATED is false (R271), recorded in State.diag with the snapshot of the register file (log
entries 9 and 16). -/
def Obligations.FailedConditionDoesNothing : Prop :=
  ∀ s : State, s.halted = false → classify (fetch s).1 ≠ .unknown → reservedWord (fetch s).1 = false →
    conditionPassed (getCond (fetch s).1) s.flags = false →
    if s.params.warnGated = true ∨ classify (fetch s).1 ≠ .dataProcessing ∨
        Pseudocode.undefinedOpcode (getBits (fetch s).1 21 4) = false then
      step s = .next (fetch s).2
    else step s = .next
      { (fetch s).2 with diag := s.diag ++ [⟨.undefinedOpcodeWarning, (fetch s).2.regs⟩] }

/-- Unknown words are skipped (R270): nothing but the fetch and its advance, no event, and the condition is not
looked at; both Unknown instructions complete from every state. -/
def Obligations.UnknownWordsSkipped : Prop :=
  (∀ s : State, s.halted = false → classify (fetch s).1 = .unknown → step s = .next (fetch s).2) ∧
    ∀ (s : State) (top : BitVec 4) (sub : BitVec 2) (rest : BitVec 25) (rest' : BitVec 24),
      exec (.unknownSel10 top rest) s = .next s ∧ exec (.unknownSel11 top sub rest') s = .next s

/-- Each of the eight undefined-opcode instructions completes (R271): with the warning when the condition passes or
WARN_GATED is false, without it otherwise, and with no other effect. The warning stands at the end of State.diag
(log entry 9) with the snapshot of the register file (R6, log entry 16). -/
def Obligations.UndefinedOpcodesComplete : Prop :=
  ∀ (cond : Cond) (imm : Bool) (rest : BitVec 21) (s : State),
    ∀ i ∈ [Instr.undef0011 cond imm rest, .undef0101 cond imm rest, .undef0110 cond imm rest,
      .undef0111 cond imm rest, .undef1000 cond imm rest, .undef1001 cond imm rest, .undef1011 cond imm rest,
      .undef1111 cond imm rest],
    ∃ t, exec i s = .next t ∧ (∀ r, t.reg r = s.reg r) ∧ t.flags = s.flags ∧ SameBytes s t ∧ t.halted = s.halted ∧
      t.draws = s.draws ∧ t.params = s.params ∧
      t.diag = if conditionPassed cond s.flags = true ∨ s.params.warnGated = false then
        s.diag ++ [⟨.undefinedOpcodeWarning, s.regs⟩] else s.diag

/-- An instruction completes exactly when it is admitted (R12): every admitted instruction has a next state from
EVERY state, and only the reserved encodings stop. -/
def Obligations.CompletesExactlyWhenAdmitted : Prop :=
  ∀ (i : Instr) (s : State), (∃ t, exec i s = .next t) ↔ i.admitted = true

/-- The reserved encodings (R96, R100, R241) are refused by name in every state, whatever their condition (R188; the
spec's decisions D11 to D15, log entry 11). -/
def Obligations.ReservedEncodingsRefused : Prop :=
  ∀ (cond : Cond) (s : State) (up b22 : Bool) (r rm : RegNo) (imm12 : BitVec 12),
    (∀ hi lo, exec (.dpReservedShiftKind cond hi lo) s = .refused .reservedShiftKind) ∧
    (∀ hi lo, exec (.dpReservedBit7 cond hi lo) s = .refused .reservedShiftBit7) ∧
    (∀ imm hi lo, exec (.lsReservedP0W1 cond imm hi lo) s = .refused .reservedAddressing) ∧
    (∀ rest, exec (.lsReservedShiftedOffset cond rest) s = .refused .reservedShiftedOffset) ∧
    ∀ i ∈ [Instr.ldrImmPre cond up b22 r r imm12, .ldrImmPost cond up b22 r r imm12, .ldrRegPre cond up b22 r r rm,
      .ldrRegPost cond up b22 r r rm, .strImmPre cond up b22 r r imm12, .strImmPost cond up b22 r r imm12,
      .strRegPre cond up b22 r r rm, .strRegPost cond up b22 r r rm],
      exec i s = .refused .reservedBaseUpdate

/-! Operands -/

/-- The rotated immediate (R171): bit k of the operand is bit (k + 2 * rotate) mod 32 of the zero-extended immediate. -/
def Obligations.RotatedImmediateBits : Prop :=
  ∀ (rotate : BitVec 4) (imm8 : BitVec 8) (k : Nat), k < 32 →
    (operandImm rotate imm8).getLsbD k = imm8.getLsbD ((k + 2 * rotate.toNat) % 32)

/-- The register shifted by an immediate amount (R172), in the integers; amount 0 passes the register through for both
kinds. -/
def Obligations.ShiftByImmediateAmount : Prop :=
  ∀ (s : State) (shamt : BitVec 5) (rm : RegNo),
    (operandShiftImm s shamt .lsl rm).toNat = (s.reg rm).toNat * 2 ^ shamt.toNat % 2 ^ 32 ∧
    (operandShiftImm s shamt .lsr rm).toNat = (s.reg rm).toNat / 2 ^ shamt.toNat ∧
    ∀ kind, shamt = 0#5 → operandShiftImm s shamt kind rm = s.reg rm

/-- The register shifted by the low byte of another (R173; amounts 0 to 31 are the spec's decision D10), in the
integers: 0 passes through, 1 to 31 shift, 32 and above give 0, and bits 31:8 of the amount register do not count. -/
def Obligations.ShiftByRegisterAmount : Prop :=
  ∀ (s : State) (rs : RegNo) (rm : RegNo) (n : Nat), n = (s.reg rs).toNat % 256 →
    ∀ kind : ShiftKind, (operandShiftReg s rs kind rm).toNat =
      if n = 0 then (s.reg rm).toNat
      else if n < 32 then
        match kind with
        | .lsl => (s.reg rm).toNat * 2 ^ n % 2 ^ 32
        | .lsr => (s.reg rm).toNat / 2 ^ n
      else 0

/-- The offsets of a load or store (R231, R232): unsigned 12 bits, or a register, where register 15 counts as its
stored value plus 8 (the spec's decision D18). -/
def Obligations.LoadStoreOffsets : Prop :=
  (∀ imm12 : BitVec 12, (offsetImm imm12).toNat = imm12.toNat ∧ (offsetImm imm12).toNat ≤ 4095) ∧
    ∀ (s : State) (rm : RegNo),
      (offsetOfReg s rm).toNat = if rm = 15 then ((s.reg 15).toNat + 8) % 2 ^ 32 else (s.reg rm).toNat

/-- The branch target (R220) in the integers: the stored program counter plus 4 plus 4 times the signed field, modulo
2^32; the displacement is a multiple of 4, so the low two bits of the program counter stay (R223). -/
def Obligations.BranchTargetArithmetic : Prop :=
  ∀ (s : State) (imm24 : BitVec 24),
    ((branchTarget s imm24).toNat : Int) = ((s.pc.toNat : Int) + 4 + 4 * imm24.toInt) % 2 ^ 32 ∧
      (branchTarget s imm24).toNat % 4 = s.pc.toNat % 4

/-! The ALU -/

/-- ADD (R157): the wrapped sum; on update N, Z, the carry of the integer sum, and V by the sign rule, which is
signed overflow; nothing without update; with the rule's corner cases. -/
def Obligations.AddPrimitive : Prop :=
  (∀ (a b : Word) (f : Flags), (aluAdd a b true f).value.toNat = (a.toNat + b.toNat) % 2 ^ 32 ∧
    (aluAdd a b false f).value = (aluAdd a b true f).value ∧ (aluAdd a b false f).flags = f ∧
    (aluAdd a b true f).flags = additionFlags a b) ∧
  (∀ f : Flags, aluAdd 0xFFFFFFFF#32 1#32 true f = ⟨0#32, ⟨false, true, true, false⟩⟩ ∧
    aluAdd 0x7FFFFFFF#32 1#32 true f = ⟨0x80000000#32, ⟨true, false, false, true⟩⟩ ∧
    aluAdd 0x80000000#32 0x80000000#32 true f = ⟨0#32, ⟨false, true, true, true⟩⟩) ∧
  ∀ a b : Word, (additionFlags a b).v = true ↔ a.toInt + b.toInt < -2 ^ 31 ∨ 2 ^ 31 ≤ a.toInt + b.toInt

/-- SUB (R158): the wrapped difference; on update N, Z, C = no borrow, V by the sign rule (the spec's own reading of
its source), which is signed overflow of a - b in 32-bit two's complement; nothing without update; with the rule's
corner cases. -/
def Obligations.SubPrimitive : Prop :=
  (∀ (a b : Word) (f : Flags), ((aluSub a b true f).value.toNat : Int) = ((a.toNat : Int) - b.toNat) % 2 ^ 32 ∧
    (aluSub a b false f).value = (aluSub a b true f).value ∧ (aluSub a b false f).flags = f ∧
    (aluSub a b true f).flags = subtractionFlags a b) ∧
  (∀ (a : Word) (f : Flags), aluSub a a true f = ⟨0#32, ⟨false, true, true, false⟩⟩) ∧
  (∀ f : Flags, aluSub 0#32 1#32 true f = ⟨0xFFFFFFFF#32, ⟨true, false, false, false⟩⟩ ∧
    aluSub 0x80000000#32 1#32 true f = ⟨0x7FFFFFFF#32, ⟨false, false, true, true⟩⟩ ∧
    aluSub 0x7FFFFFFF#32 0xFFFFFFFF#32 true f = ⟨0x80000000#32, ⟨true, false, false, true⟩⟩ ∧
    aluSub 0#32 0x80000000#32 true f = ⟨0x80000000#32, ⟨true, false, false, true⟩⟩ ∧
    aluSub 5#32 10#32 true f = ⟨0xFFFFFFFB#32, ⟨true, false, false, false⟩⟩) ∧
  ∀ a b : Word, (subtractionFlags a b).v = true ↔ a.toInt - b.toInt < -2 ^ 31 ∨ 2 ^ 31 ≤ a.toInt - b.toInt

/-- BIC is AND with the BITWISE complement (R155; the spec's resolution C4), every bit of the result alone, with N
and Z on request and C and V kept (C1); with the rule's corner cases. -/
def Obligations.BicPrimitive : Prop :=
  (∀ (a b : Word) (upd : Bool) (f : Flags), (aluBic a b upd f).flags = logicalFlags upd f (aluBic a b upd f).value ∧
    ∀ k, k < 32 → (aluBic a b upd f).value.getLsbD k = (a.getLsbD k && !b.getLsbD k)) ∧
  (∀ (a : Word) (upd : Bool) (f : Flags), (aluBic a 0#32 upd f).value = a ∧
    (aluBic a 0xFFFFFFFF#32 upd f).value = 0#32) ∧
  ∀ f : Flags, (aluBic 0xFFFFFFFF#32 0x0000FF00#32 true f).value = 0xFFFF00FF#32

/-- MUL and MLA (R160, R161): the low 32 bits of the product, or of the product plus the addend; N and Z on request
from the 32-bit result, C and V kept (the spec's resolution C1); the same for signed and unsigned factors. -/
def Obligations.MultiplyPrimitives : Prop :=
  ∀ (m x n : Word) (upd : Bool) (f : Flags),
    (aluMul m x upd f).value.toNat = m.toNat * x.toNat % 2 ^ 32 ∧
    (aluMul m x upd f).flags = logicalFlags upd f (aluMul m x upd f).value ∧
    (aluMla m x n upd f).value.toNat = (m.toNat * x.toNat + n.toNat) % 2 ^ 32 ∧
    (aluMla m x n upd f).flags = logicalFlags upd f (aluMla m x n upd f).value ∧
    ((aluMul m x upd f).value.toNat : Int) = m.toInt * x.toInt % 2 ^ 32

/-! Instructions: what each completes with, and what it leaves unchanged -/

/-- AND, EOR, ORR, BIC, MOV in all three operand forms (R176, R177, R181, R183, R182): with a passing condition the
instruction completes, the result is in rd, N and Z follow it if S = 1 (C and V kept: the spec's resolution C1), and
nothing else changes. -/
def Obligations.LogicalInstructionsComplete : Prop :=
  ∀ (cond : Cond) (upd : Bool) (rn rd : RegNo) (s : State), conditionPassed cond s.flags = true →
    (∀ (rotate : BitVec 4) (imm8 : BitVec 8) (a b : Word), a = s.reg rn → b = operandImm rotate imm8 →
      CompletesWith (.andImm cond upd rn rd rotate imm8) s rd (a &&& b) (logicalFlags upd s.flags (a &&& b)) ∧
      CompletesWith (.eorImm cond upd rn rd rotate imm8) s rd (a ^^^ b) (logicalFlags upd s.flags (a ^^^ b)) ∧
      CompletesWith (.orrImm cond upd rn rd rotate imm8) s rd (a ||| b) (logicalFlags upd s.flags (a ||| b)) ∧
      CompletesWith (.bicImm cond upd rn rd rotate imm8) s rd (a &&& ~~~b) (logicalFlags upd s.flags (a &&& ~~~b)) ∧
      CompletesWith (.movImm cond upd rn rd rotate imm8) s rd b (logicalFlags upd s.flags b)) ∧
    (∀ (shamt : BitVec 5) (kind : ShiftKind) (rm : RegNo) (a b : Word), a = s.reg rn →
      b = operandShiftImm s shamt kind rm →
      CompletesWith (.andShiftImm cond upd rn rd shamt kind rm) s rd (a &&& b) (logicalFlags upd s.flags (a &&& b)) ∧
      CompletesWith (.eorShiftImm cond upd rn rd shamt kind rm) s rd (a ^^^ b) (logicalFlags upd s.flags (a ^^^ b)) ∧
      CompletesWith (.orrShiftImm cond upd rn rd shamt kind rm) s rd (a ||| b) (logicalFlags upd s.flags (a ||| b)) ∧
      CompletesWith (.bicShiftImm cond upd rn rd shamt kind rm) s rd (a &&& ~~~b)
        (logicalFlags upd s.flags (a &&& ~~~b)) ∧
      CompletesWith (.movShiftImm cond upd rn rd shamt kind rm) s rd b (logicalFlags upd s.flags b)) ∧
    ∀ (rs : RegNo) (kind : ShiftKind) (rm : RegNo) (a b : Word), a = s.reg rn → b = operandShiftReg s rs kind rm →
      CompletesWith (.andShiftReg cond upd rn rd rs kind rm) s rd (a &&& b) (logicalFlags upd s.flags (a &&& b)) ∧
      CompletesWith (.eorShiftReg cond upd rn rd rs kind rm) s rd (a ^^^ b) (logicalFlags upd s.flags (a ^^^ b)) ∧
      CompletesWith (.orrShiftReg cond upd rn rd rs kind rm) s rd (a ||| b) (logicalFlags upd s.flags (a ||| b)) ∧
      CompletesWith (.bicShiftReg cond upd rn rd rs kind rm) s rd (a &&& ~~~b)
        (logicalFlags upd s.flags (a &&& ~~~b)) ∧
      CompletesWith (.movShiftReg cond upd rn rd rs kind rm) s rd b (logicalFlags upd s.flags b)

/-- ADD and SUB in all three operand forms (R179, R178): with a passing condition the instruction completes with the
wrapped sum or difference in rd, all four flags if S = 1, and nothing else changed. -/
def Obligations.ArithmeticInstructionsComplete : Prop :=
  ∀ (cond : Cond) (upd : Bool) (rn rd : RegNo) (s : State), conditionPassed cond s.flags = true →
    (∀ (rotate : BitVec 4) (imm8 : BitVec 8) (a b : Word), a = s.reg rn → b = operandImm rotate imm8 →
      CompletesWith (.addImm cond upd rn rd rotate imm8) s rd (a + b) (if upd then additionFlags a b else s.flags) ∧
      CompletesWith (.subImm cond upd rn rd rotate imm8) s rd (a - b)
        (if upd then subtractionFlags a b else s.flags)) ∧
    (∀ (shamt : BitVec 5) (kind : ShiftKind) (rm : RegNo) (a b : Word), a = s.reg rn →
      b = operandShiftImm s shamt kind rm →
      CompletesWith (.addShiftImm cond upd rn rd shamt kind rm) s rd (a + b)
        (if upd then additionFlags a b else s.flags) ∧
      CompletesWith (.subShiftImm cond upd rn rd shamt kind rm) s rd (a - b)
        (if upd then subtractionFlags a b else s.flags)) ∧
    ∀ (rs : RegNo) (kind : ShiftKind) (rm : RegNo) (a b : Word), a = s.reg rn → b = operandShiftReg s rs kind rm →
      CompletesWith (.addShiftReg cond upd rn rd rs kind rm) s rd (a + b)
        (if upd then additionFlags a b else s.flags) ∧
      CompletesWith (.subShiftReg cond upd rn rd rs kind rm) s rd (a - b)
        (if upd then subtractionFlags a b else s.flags)

/-- CMP in all three operand forms (R180): with a passing condition the instruction completes with the flags of the
subtraction whatever S says, and no register, byte or other state changed. -/
def Obligations.CompareCompletes : Prop :=
  ∀ (cond : Cond) (upd : Bool) (rn rd : RegNo) (s : State), conditionPassed cond s.flags = true →
    ∀ (i : Instr) (b : Word),
      ((∃ rotate imm8, i = .cmpImm cond upd rn rd rotate imm8 ∧ b = operandImm rotate imm8) ∨
        (∃ shamt kind rm, i = .cmpShiftImm cond upd rn rd shamt kind rm ∧ b = operandShiftImm s shamt kind rm) ∨
        ∃ rs kind rm, i = .cmpShiftReg cond upd rn rd rs kind rm ∧ b = operandShiftReg s rs kind rm) →
      ∃ t, exec i s = .next t ∧ t.flags = subtractionFlags (s.reg rn) b ∧ (∀ r, t.reg r = s.reg r) ∧ SameBytes s t ∧
        SameControl s t

/-- MUL and MLA (R211, R212): with a passing condition the product, or the product plus the addend, in rd; N and Z
if S = 1 (C and V kept: the spec's resolution C1); nothing else. -/
def Obligations.MultiplyInstructionsComplete : Prop :=
  ∀ (cond : Cond) (ign : BitVec 4) (upd : Bool) (rd rn rs rm : RegNo) (s : State),
    conditionPassed cond s.flags = true → ∀ p q : Word, p = s.reg rm * s.reg rs → q = s.reg rm * s.reg rs + s.reg rn →
      CompletesWith (.mul cond ign upd rd rn rs rm) s rd p (logicalFlags upd s.flags p) ∧
      CompletesWith (.mla cond ign upd rd rn rs rm) s rd q (logicalFlags upd s.flags q)

/-- B and BL (R221, R222): with a passing condition register 15 gets the target, BL also puts the stored register 15
into register 14; nothing else changes. -/
def Obligations.BranchInstructionsComplete : Prop :=
  ∀ (cond : Cond) (imm24 : BitVec 24) (s : State), conditionPassed cond s.flags = true →
    CompletesWith (.b cond imm24) s 15 (branchTarget s imm24) s.flags ∧
    ∃ t, exec (.bl cond imm24) s = .next t ∧ t.reg 15 = branchTarget s imm24 ∧ t.reg 14 = s.reg 15 ∧
      (∀ r, r ≠ 15 → r ≠ 14 → t.reg r = s.reg r) ∧ t.flags = s.flags ∧ SameBytes s t ∧ SameControl s t

/-- LDR, offset variant (R238, R234): with a passing condition the word at the address in rd, low two bits cleared
if rd is 15; no base update, no flag, no memory change; rd = rn included. A never-written byte is the fill byte (log
entry 5). -/
def Obligations.LoadOffsetCompletes : Prop :=
  ∀ (cond : Cond) (up b22 : Bool) (rn rd : RegNo) (s : State), conditionPassed cond s.flags = true →
    ∀ (i : Instr) (offset addr : Word),
      ((∃ imm12, i = .ldrImmOffset cond up b22 rn rd imm12 ∧ offset = offsetImm imm12) ∨
        ∃ rm, i = .ldrRegOffset cond up b22 rn rd rm ∧ offset = offsetOfReg s rm) →
      addr = (if up then s.reg rn + offset else s.reg rn - offset) →
      ∃ t, exec i s = .next t ∧
        t.reg rd = (if rd = 15 then (readWord s addr).1 &&& 0xFFFFFFFC#32 else (readWord s addr).1) ∧
        SameRegsBut rd s t ∧ t.flags = s.flags ∧ SameBytes s t ∧ t.halted = s.halted ∧ t.diag = s.diag ∧
        t.draws = (readWord s addr).2.draws ∧ t.params = s.params

/-- LDR with base update, rd not rn (R238, R235, R236): with a passing condition pre-indexed loads from the applied
address, post-indexed from the old base; both leave the applied address in rn; nothing else changes. A never-written
byte is the fill byte (log entry 5). -/
def Obligations.LoadBaseUpdateCompletes : Prop :=
  ∀ (cond : Cond) (up b22 : Bool) (rn rd : RegNo) (s : State), conditionPassed cond s.flags = true → rd ≠ rn →
    ∀ (i : Instr) (offset applied addr : Word), applied = (if up then s.reg rn + offset else s.reg rn - offset) →
      ((∃ imm12, i = .ldrImmPre cond up b22 rn rd imm12 ∧ offset = offsetImm imm12 ∧ addr = applied) ∨
        (∃ rm, i = .ldrRegPre cond up b22 rn rd rm ∧ offset = offsetOfReg s rm ∧ addr = applied) ∨
        (∃ imm12, i = .ldrImmPost cond up b22 rn rd imm12 ∧ offset = offsetImm imm12 ∧ addr = s.reg rn) ∨
        ∃ rm, i = .ldrRegPost cond up b22 rn rd rm ∧ offset = offsetOfReg s rm ∧ addr = s.reg rn) →
      ∃ t, exec i s = .next t ∧
        t.reg rd = (if rd = 15 then (readWord s addr).1 &&& 0xFFFFFFFC#32 else (readWord s addr).1) ∧
        t.reg rn = applied ∧ (∀ r, r ≠ rd → r ≠ rn → t.reg r = s.reg r) ∧ t.flags = s.flags ∧ SameBytes s t ∧
        t.halted = s.halted ∧ t.diag = s.diag ∧ t.draws = (readWord s addr).2.draws ∧ t.params = s.params

/-- STR, offset variant (R239, R234): with a passing condition one byte (the spec's resolution C3), the low byte of
rd, at the address, and no other byte; no register, no flag; rd = rn included. -/
def Obligations.StoreOffsetCompletes : Prop :=
  ∀ (cond : Cond) (up b22 : Bool) (rn rd : RegNo) (s : State), conditionPassed cond s.flags = true →
    ∀ (i : Instr) (offset addr : Word),
      ((∃ imm12, i = .strImmOffset cond up b22 rn rd imm12 ∧ offset = offsetImm imm12) ∨
        ∃ rm, i = .strRegOffset cond up b22 rn rd rm ∧ offset = offsetOfReg s rm) →
      addr = (if up then s.reg rn + offset else s.reg rn - offset) →
      ∃ t, exec i s = .next t ∧ OneByteStored s t addr ((s.reg rd).setWidth 8) ∧ (∀ r, t.reg r = s.reg r) ∧
        t.flags = s.flags ∧ SameControl s t

/-- STR with base update, rd not rn (R239, R235, R236): with a passing condition one byte (the spec's resolution C3)
at the applied address (pre-indexed) or the old base (post-indexed); rn gets the applied address; nothing else
changes. -/
def Obligations.StoreBaseUpdateCompletes : Prop :=
  ∀ (cond : Cond) (up b22 : Bool) (rn rd : RegNo) (s : State), conditionPassed cond s.flags = true → rd ≠ rn →
    ∀ (i : Instr) (offset applied addr : Word), applied = (if up then s.reg rn + offset else s.reg rn - offset) →
      ((∃ imm12, i = .strImmPre cond up b22 rn rd imm12 ∧ offset = offsetImm imm12 ∧ addr = applied) ∨
        (∃ rm, i = .strRegPre cond up b22 rn rd rm ∧ offset = offsetOfReg s rm ∧ addr = applied) ∨
        (∃ imm12, i = .strImmPost cond up b22 rn rd imm12 ∧ offset = offsetImm imm12 ∧ addr = s.reg rn) ∨
        ∃ rm, i = .strRegPost cond up b22 rn rd rm ∧ offset = offsetOfReg s rm ∧ addr = s.reg rn) →
      ∃ t, exec i s = .next t ∧ OneByteStored s t addr ((s.reg rd).setWidth 8) ∧ t.reg rn = applied ∧
        SameRegsBut rn s t ∧ t.flags = s.flags ∧ SameControl s t

/-- SWI (R261 to R264) with a passing condition: service 0 sets the latch (the spec's decision D20), services 1 and
2 emit their events with the registers as they are, every other service does nothing; no register, flag or byte
changes. That an event is a change of State.diag is the model's choice (log entry 9; the spec keeps the output
outside the state), and so is the record of the stream's snapshot beside each event (R6, log entry 16). -/
def Obligations.SoftwareInterruptsComplete : Prop :=
  ∀ (cond : Cond) (service : BitVec 24) (s : State), conditionPassed cond s.flags = true →
    exec (.swiHalt cond) s = .next { s with halted := true } ∧
    exec (.swiDumpRegisters cond) s = .next { s with diag := s.diag ++ [⟨.dumpRegisters s.regs, s.regs⟩] } ∧
    exec (.swiPrintR0 cond) s = .next { s with diag := s.diag ++ [⟨.printR0 (s.reg 0), s.regs⟩] } ∧
    exec (.swiOther cond service) s = .next s

/-! The handlers on raw words -/

/-- ExecDataProcessing (R170): for every DataProcessing word, decoder and meaning compute what its pseudocode
computes, with WARN_GATED true as it has it; reserved words are refused. -/
def Obligations.DataProcessingHandler : Prop :=
  ∀ (w : Word) (s : State), classify w = .dataProcessing → s.params.warnGated = true →
    AgreesWith (exec (decodeWord w) s) (Pseudocode.execDataProcessing w s)

/-- ExecMultiply (R210), ExecBranch (R220) and ExecSoftwareInterrupt (R260; gated by the spec's decision D19): for
every word of the family, decoder and meaning compute what its pseudocode computes. -/
def Obligations.MultiplyBranchServiceHandlers : Prop :=
  ∀ (w : Word) (s : State),
    (classify w = .multiply → AgreesWith (exec (decodeWord w) s) (Pseudocode.execMultiply w s)) ∧
    (classify w = .branch → AgreesWith (exec (decodeWord w) s) (Pseudocode.execBranch w s)) ∧
    (classify w = .softwareInterrupt → AgreesWith (exec (decodeWord w) s) (Pseudocode.execSoftwareInterrupt w s))

/-- ExecLoadStore (R230): for every LoadStore word, decoder and meaning compute what its pseudocode computes;
reserved words are refused. -/
def Obligations.LoadStoreHandler : Prop :=
  ∀ (w : Word) (s : State), classify w = .loadStore →
    AgreesWith (exec (decodeWord w) s) (Pseudocode.execLoadStore w s)

/-! Memory -/

/-- MemWrite (R54): byte i of the value is at (addr + i) mod 2^32 afterwards, for i below n, and every other address
reads as before. -/
def Obligations.StoredBytesLand : Prop :=
  ∀ (s : State) (addr : Word) (n : Nat) (v : Word), n ≤ 4 →
    (∀ i, i < n → memLookup (s.memWrite addr n v).mem ((addr.toNat + i) % 2 ^ 32) = some (getBits v (8 * i) 8)) ∧
    ∀ a, (∀ i, i < n → a ≠ (addr.toNat + i) % 2 ^ 32) →
      memLookup (s.memWrite addr n v).mem a = memLookup s.mem a

/-- The properties of the store (R66): (a) a stored byte is read back; (b) with deterministic fill a never-written byte
reads as 0x00 on every call; (c) a second store to an address overwrites the first. -/
def Obligations.StoreProperties : Prop :=
  ∀ (s : State) (a : Word) (v u : Word),
    readByte (s.memWrite a 1 v) a = (v.setWidth 8, s.memWrite a 1 v) ∧
    (s.params.fillMode = .deterministic → memLookup s.mem a.toNat = none →
      readByte s a = (0#8, s) ∧ readByte (readByte s a).2 a = (0#8, s)) ∧
    (s.memWrite a 1 v).memWrite a 1 u = s.memWrite a 1 u

/-- A read (R51, R52) gives the stored byte or a fill byte, and never changes memory: in deterministic mode the fill
byte is 0x00 and nothing changes; in random mode it is the next draw, whatever byte that is, and the next read of a
never-written byte takes another draw (the model's free values, log entry 5). -/
def Obligations.ReadsNeverWrite : Prop :=
  ∀ (s : State) (a : Word),
    (∀ b, memLookup s.mem a.toNat = some b → readByte s a = (b, s)) ∧
    (memLookup s.mem a.toNat = none → s.params.fillMode = .deterministic → readByte s a = (0#8, s)) ∧
    (memLookup s.mem a.toNat = none → s.params.fillMode = .random →
      readByte s a = (Config.fillDraw s.draws, { s with draws := s.draws + 1 })) ∧
    (readWord s a).2.mem = s.mem

/-- A word read is four byte reads, each at its address modulo 2^32, little-endian (R53). That each read is made in
the state the one before left, which fixes the order of the draws and the draw counter, is the model's choice (log
entry 5). -/
def Obligations.WordReadIsFourByteReads : Prop :=
  ∀ (s s1 s2 s3 s4 : State) (a : Word) (b0 b1 b2 b3 : Byte),
    readByte s a = (b0, s1) → readByte s1 (BitVec.ofNat 32 (a.toNat + 1)) = (b1, s2) →
    readByte s2 (BitVec.ofNat 32 (a.toNat + 2)) = (b2, s3) → readByte s3 (BitVec.ofNat 32 (a.toNat + 3)) = (b3, s4) →
    (readWord s a).2 = s4 ∧
      (readWord s a).1.toNat = b0.toNat + b1.toNat * 2 ^ 8 + b2.toNat * 2 ^ 16 + b3.toNat * 2 ^ 24

/-- Instruction-fetch coherence (R64): the byte an STR of any of the six forms puts into the next instruction is
seen by the next fetch, at the program counter the STR leaves (a form that updates register 15 moves it). -/
def Obligations.StoreSeenByNextFetch : Prop :=
  ∀ (s t : State) (cond : Cond) (up b22 : Bool) (rn rd rm : RegNo) (imm12 : BitVec 12) (k : Nat),
    ∀ p ∈ [(Instr.strImmOffset cond up b22 rn rd imm12, accessAddr s .offset up rn (offsetImm imm12)),
      (.strImmPre cond up b22 rn rd imm12, accessAddr s .preIndexed up rn (offsetImm imm12)),
      (.strImmPost cond up b22 rn rd imm12, accessAddr s .postIndexed up rn (offsetImm imm12)),
      (.strRegOffset cond up b22 rn rd rm, accessAddr s .offset up rn (offsetOfReg s rm)),
      (.strRegPre cond up b22 rn rd rm, accessAddr s .preIndexed up rn (offsetOfReg s rm)),
      (.strRegPost cond up b22 rn rd rm, accessAddr s .postIndexed up rn (offsetOfReg s rm))],
    exec p.1 s = .next t → conditionPassed cond s.flags = true → k < 4 → p.2 = t.pc + BitVec.ofNat 32 k →
      getBits (fetch t).1 (8 * k) 8 = (s.reg rd).setWidth 8

/-! Reset and boot -/

/-- Reset (R33), for any parameters, ENTRY_PC and INITIAL_MEMORY: registers 0 to 14 are zero, register 15 is ENTRY_PC,
the four flags and the latch are false, the written bytes are exactly those of INITIAL_MEMORY. -/
def Obligations.ResetLeaves : Prop :=
  ∀ (p : Params) (entry : Word) (m : Memory) (s : State), s = State.resetWith p entry m →
    (∀ r : RegNo, r ≠ 15 → s.reg r = 0#32) ∧ s.reg 15 = entry ∧ s.flags.n = false ∧ s.flags.z = false ∧
      s.flags.c = false ∧ s.flags.v = false ∧ s.halted = false ∧ s.mem = m

/-- The memory is in canonical form (the model's, log entry 7) at State.reset and after the reset that follows the
load of any list of pairs. -/
def Obligations.ResetMemoryCanonical : Prop :=
  Inv State.reset ∧ ∀ (p : Params) (pairs : List (Word × Word)), Inv (boot p pairs)

/-- Boot (R301): every byte of every pair is in memory, least significant first at the address modulo 2^32, unless a
later pair covers it; a byte that no pair covers is never written; the address of the first pair is the entry (the
spec's resolution C2); the last word stored is read back whole. -/
def Obligations.BootStoresPairs : Prop :=
  ∀ (p : Params) (pre post : List (Word × Word)) (a w : Word),
    (∀ i, i < 4 → (∀ q ∈ post, ∀ j, j < 4 → (a.toNat + i) % 2 ^ 32 ≠ (q.1.toNat + j) % 2 ^ 32) →
      memLookup (boot p (pre ++ (a, w) :: post)).mem ((a.toNat + i) % 2 ^ 32) = some (getBits w (8 * i) 8)) ∧
    (boot p ((a, w) :: post)).pc = a ∧
    (∀ c, (∀ q ∈ pre, ∀ i, i < 4 → c ≠ (q.1.toNat + i) % 2 ^ 32) → memLookup (boot p pre).mem c = none) ∧
    readWord (boot p (pre ++ [(a, w)])) a = (w, boot p (pre ++ [(a, w)]))

/-! Invariants and whole-machine rules -/

/-- Every step keeps the canonical form of the memory (the model's, log entry 7), from every state that has it,
whatever the instruction. -/
def Obligations.StepKeepsMemoryCanonical : Prop := ∀ s t : State, Inv s → step s = .next t → Inv t

/-- Written bytes stay written (R31, R51: memory "grows only via store"), along any run. -/
def Obligations.WrittenBytesStayWritten : Prop :=
  ∀ (s t : State) (a : Nat), Reaches s t → (memLookup s.mem a).isSome = true → (memLookup t.mem a).isSome = true

/-- Only STR writes memory, and it writes one byte (R57, R239): a step of an STR whose condition passes puts the low
byte of rd at the address its form gives it, from the state after fetch and advance, and changes no other byte;
every other step changes none. -/
def Obligations.OnlyStoresWriteOneByte : Prop :=
  ∀ s t : State, step s = .next t →
    (s.halted = true → SameBytes s t) ∧
    (s.halted = false →
      match storeOf (fetch s).2 (decodeWord (fetch s).1) with
      | none => SameBytes s t
      | some (addr, b) =>
        if conditionPassed (getCond (fetch s).1) s.flags = true then OneByteStored s t addr b else SameBytes s t)

/-- SWI 0 with a passing condition is the only way a run ends (R261). -/
def Obligations.OnlyServiceZeroHalts : Prop :=
  ∀ s t : State, s.halted = false → step s = .next t →
    (t.halted = true ↔
      (fetch s).1 &&& 0x0FFFFFFF#32 = 0x0F000000#32 ∧ conditionPassed (getCond (fetch s).1) s.flags = true)

/-- Flags change only by the instructions of R28's table: N and Z by ALU instructions with the update-flags bit and by
CMP, C and V by ADD and SUB with that bit and by CMP; and only when the condition passes. -/
def Obligations.FlagWriters : Prop :=
  ∀ s t : State, s.halted = false → step s = .next t →
    (t.flags ≠ s.flags → mayWriteFlags (decodeWord (fetch s).1) = true ∧
      conditionPassed (getCond (fetch s).1) s.flags = true) ∧
    (t.flags.c ≠ s.flags.c ∨ t.flags.v ≠ s.flags.v → mayWriteCarryOverflow (decodeWord (fetch s).1) = true)

/-- The list of control transfers is complete (R225): after any other instruction the next one follows it, 4 bytes on,
and so it does when the condition fails. -/
def Obligations.ControlTransfersAreListed : Prop :=
  ∀ s t : State, s.halted = false → step s = .next t →
    mayTransferControl (decodeWord (fetch s).1) = false ∨
      (classify (fetch s).1 ≠ .unknown ∧ conditionPassed (getCond (fetch s).1) s.flags = false) →
    t.pc = s.pc + 4#32

/-- The value of C never influences a run (R29): from the state with another C the step has the same outcome but for
C, every register, other flag, byte and event the same, and the same refusal if it is refused. -/
def Obligations.CarryHasNoInfluence : Prop :=
  ∀ (s : State) (c : Bool),
    (∀ t, step s = .next t → ∃ c', step (withCarry s c) = .next (withCarry t c')) ∧
      ∀ r, step s = .refused r → step (withCarry s c) = .refused r

/-- The diagnostic stream is an output only (R6, R266; that the model records it in State is its own choice, log
entry 9): a step appends at most one event, and the events emitted before influence nothing. -/
def Obligations.DiagIsOutputOnly : Prop :=
  ∀ s t : State, step s = .next t → ∃ e : List DiagRecord, e.length ≤ 1 ∧ t.diag = s.diag ++ e ∧
    ∀ d, step (withDiag s d) = .next (withDiag t (d ++ e))

/-- No step changes FILL_MODE or WARN_GATED (R5); in deterministic mode no random byte is ever drawn (R52), and a
step draws at most eight (State.params and State.draws are the model's fields, log entries 4, 5 and 8). -/
def Obligations.ParametersAndDraws : Prop :=
  ∀ s t : State, step s = .next t → t.params = s.params ∧ s.draws ≤ t.draws ∧ t.draws ≤ s.draws + 8 ∧
    (s.params.fillMode = .deterministic → t.draws = s.draws)

/-- The trace display decodes the very word the step fetches, whenever its bytes are written or the fill is
deterministic (R35; in random mode a never-written byte is a draw of the trace's own, log entry 6), and shows cond,
family and the fields of the family by bits (R109; positions general knowledge by the spec's own mark, log entry
10). -/
def Obligations.TraceShowsFetchedWord : Prop :=
  ∀ (s : State) (n : Nat) (d : DecodeResult) (w : Word), d = nextDecode s n → w = (fetch s).1 →
    (s.params.fillMode = .deterministic ∨
      ∀ k, k < 4 → (memLookup s.mem (s.pc + BitVec.ofNat 32 k).toNat).isSome = true) →
    d = decodeResult w ∧ d.cond = w.extractLsb' 28 4 ∧ d.family = classify w ∧
    d.fields = match classify w with
      | .dataProcessing =>
        .dataProcessing (w.getLsbD 25) (w.extractLsb' 21 4) (w.getLsbD 20) (w.extractLsb' 16 4) (w.extractLsb' 12 4)
          (if w.getLsbD 25 = true then .imm (w.extractLsb' 8 4) (w.extractLsb' 0 8)
            else if w.getLsbD 4 = true then .shiftReg (w.extractLsb' 0 4) (w.extractLsb' 5 2) (w.extractLsb' 8 4)
            else .shiftImm (w.extractLsb' 0 4) (w.extractLsb' 5 2) (w.extractLsb' 7 5))
      | .multiply =>
        .multiply (w.getLsbD 21) (w.getLsbD 20) (w.extractLsb' 16 4) (w.extractLsb' 12 4) (w.extractLsb' 8 4)
          (w.extractLsb' 0 4)
      | .branch => .branch (w.getLsbD 24) (w.extractLsb' 0 24)
      | .loadStore =>
        .loadStore (w.getLsbD 25) (w.getLsbD 24) (w.getLsbD 23) (w.getLsbD 21) (w.getLsbD 20) (w.extractLsb' 16 4)
          (w.extractLsb' 12 4)
          (if w.getLsbD 25 = true then .reg (w.extractLsb' 0 4) else .imm (w.extractLsb' 0 12))
      | .softwareInterrupt => .softwareInterrupt (w.extractLsb' 0 24)
      | .unknown => .unknown
end

