-- ==== Sys2Proof/Laws/Encoding.lean ====
section
/-! SUPPORT. Field lemmas of the word formats: what each bit field of an encoded word is. The codes of conditions,
registers, shift kinds and bits read back. -/

namespace Sys2Proof

@[simp] theorem condOfBits_condBits (c : Cond) : condOfBits (condBits c) = c := by cases c <;> rfl

@[simp] theorem condBits_condOfBits : ∀ b : BitVec 4, condBits (condOfBits b) = b := by decide

@[simp] theorem regOfBits_regBits : ∀ r : RegNo, regOfBits (regBits r) = r := by decide

@[simp] theorem regBits_regOfBits : ∀ b : BitVec 4, regBits (regOfBits b) = b := by decide

@[simp] theorem bit_ne_zero (b : Bool) : (bit b != 0#1) = b := by cases b <;> rfl

@[simp] theorem bit_of_ne_zero : ∀ b : BitVec 1, bit (b != 0#1) = b := by decide

/-! Relations between extractions (R81, R83) -/

/-- A field inside a field. -/
theorem getBits_sub (w : Word) (o m k n : Nat) (h : k + n ≤ m) :
    getBits w (o + k) n = (getBits w o m).extractLsb' k n := by
  ext j hj
  have : k + j < m := by omega
  simp [getBits, this, Nat.add_assoc]

/-- Adjacent fields reassemble (R83). -/
theorem getBits_append (w : Word) (o m n : Nat) :
    getBits w (o + m) n ++ getBits w o m = getBits w o (n + m) := by
  apply BitVec.eq_of_getLsbD_eq
  intro j hj
  simp only [getBits, BitVec.getLsbD_append, BitVec.getLsbD_extractLsb']
  by_cases h : j < m
  · simp [h, show j < n + m by omega]
  · simp [h, show j - m < n by omega, hj, show o + m + (j - m) = o + j by omega]

/-- The whole word is its own field (R81). -/
theorem getBits_self (w : Word) : getBits w 0 32 = w := by simp [getBits]

/-- Bits 7:4 one by one. -/
theorem getBits_nibble (w : Word) :
    getBits w 4 4 = getBits w 7 1 ++ getBits w 6 1 ++ getBits w 5 1 ++ getBits w 4 1 := by
  apply BitVec.eq_of_getLsbD_eq
  intro j hj
  simp only [getBits, BitVec.getLsbD_append, BitVec.getLsbD_extractLsb']
  interval_cases j <;> simp

/-- The multiply marker, bit by bit (R86). -/
theorem getBits_eq_marker (w : Word) :
    getBits w 4 4 = 0b1001#4 ↔ getBit w 7 = true ∧ getBit w 6 = false ∧ getBit w 5 = false ∧ getBit w 4 = true := by
  rw [getBits_nibble]
  unfold getBit
  generalize getBits w 7 1 = a
  generalize getBits w 6 1 = b
  generalize getBits w 5 1 = c
  generalize getBits w 4 1 = d
  revert a b c d
  decide

/-- The reserved bit-7 pattern, bit by bit (R96 b). -/
theorem getBits_eq_reservedBit7 (w : Word) :
    getBits w 4 4 = 0b1011#4 ↔ getBit w 7 = true ∧ getBit w 6 = false ∧ getBit w 5 = true ∧ getBit w 4 = true := by
  rw [getBits_nibble]
  unfold getBit
  generalize getBits w 7 1 = a
  generalize getBits w 6 1 = b
  generalize getBits w 5 1 = c
  generalize getBits w 4 1 = d
  revert a b c d
  decide

/-! The formats, field by field -/

@[simp] theorem getBits_dpWord_cond (cond : Cond) (i : Bool) (opcode : BitVec 4) (upd : Bool) (rn rd : RegNo) (op2 : BitVec 12) :
    getBits (dpWord cond i opcode upd rn rd op2) 28 4 = condBits cond := by
  simp (disch := decide) only [getBits, dpWord, 
    BitVec.extractLsb'_append_eq_of_le, Nat.reduceSub, BitVec.extractLsb'_eq_self]

@[simp] theorem getBits_dpWord_sel (cond : Cond) (i : Bool) (opcode : BitVec 4) (upd : Bool) (rn rd : RegNo) (op2 : BitVec 12) :
    getBits (dpWord cond i opcode upd rn rd op2) 26 2 = 0b00#2 := by
  simp (disch := decide) only [getBits, dpWord, BitVec.extractLsb'_append_eq_of_add_le, 
    BitVec.extractLsb'_append_eq_of_le, Nat.reduceSub, BitVec.extractLsb'_eq_self]

@[simp] theorem getBits_dpWord_imm (cond : Cond) (i : Bool) (opcode : BitVec 4) (upd : Bool) (rn rd : RegNo) (op2 : BitVec 12) :
    getBits (dpWord cond i opcode upd rn rd op2) 25 1 = bit i := by
  simp (disch := decide) only [getBits, dpWord, BitVec.extractLsb'_append_eq_of_add_le, 
    BitVec.extractLsb'_append_eq_of_le, Nat.reduceSub, BitVec.extractLsb'_eq_self]

@[simp] theorem getBits_dpWord_opcode (cond : Cond) (i : Bool) (opcode : BitVec 4) (upd : Bool) (rn rd : RegNo) (op2 : BitVec 12) :
    getBits (dpWord cond i opcode upd rn rd op2) 21 4 = opcode := by
  simp (disch := decide) only [getBits, dpWord, BitVec.extractLsb'_append_eq_of_add_le, 
    BitVec.extractLsb'_append_eq_of_le, Nat.reduceSub, BitVec.extractLsb'_eq_self]

@[simp] theorem getBits_dpWord_upd (cond : Cond) (i : Bool) (opcode : BitVec 4) (upd : Bool) (rn rd : RegNo) (op2 : BitVec 12) :
    getBits (dpWord cond i opcode upd rn rd op2) 20 1 = bit upd := by
  simp (disch := decide) only [getBits, dpWord, BitVec.extractLsb'_append_eq_of_add_le, 
    BitVec.extractLsb'_append_eq_of_le, Nat.reduceSub, BitVec.extractLsb'_eq_self]

@[simp] theorem getBits_dpWord_rn (cond : Cond) (i : Bool) (opcode : BitVec 4) (upd : Bool) (rn rd : RegNo) (op2 : BitVec 12) :
    getBits (dpWord cond i opcode upd rn rd op2) 16 4 = regBits rn := by
  simp (disch := decide) only [getBits, dpWord, BitVec.extractLsb'_append_eq_of_add_le, 
    BitVec.extractLsb'_append_eq_of_le, Nat.reduceSub, BitVec.extractLsb'_eq_self]

@[simp] theorem getBits_dpWord_rd (cond : Cond) (i : Bool) (opcode : BitVec 4) (upd : Bool) (rn rd : RegNo) (op2 : BitVec 12) :
    getBits (dpWord cond i opcode upd rn rd op2) 12 4 = regBits rd := by
  simp (disch := decide) only [getBits, dpWord, BitVec.extractLsb'_append_eq_of_add_le, 
    BitVec.extractLsb'_append_eq_of_le, Nat.reduceSub, BitVec.extractLsb'_eq_self]

theorem getBits_dpWord_op2 (cond : Cond) (i : Bool) (opcode : BitVec 4) (upd : Bool) (rn rd : RegNo) (op2 : BitVec 12) (lo n : Nat) (h : lo + n ≤ 12) :
    getBits (dpWord cond i opcode upd rn rd op2) lo n = op2.extractLsb' lo n := by
  simp only [getBits, dpWord, BitVec.extractLsb'_append_eq_of_add_le h]

@[simp] theorem getBits_undefWord_cond (cond : Cond) (imm : Bool) (opcode : BitVec 4) (rest : BitVec 21) :
    getBits (undefWord cond imm opcode rest) 28 4 = condBits cond := by
  simp (disch := decide) only [getBits, undefWord, 
    BitVec.extractLsb'_append_eq_of_le, Nat.reduceSub, BitVec.extractLsb'_eq_self]

@[simp] theorem getBits_undefWord_sel (cond : Cond) (imm : Bool) (opcode : BitVec 4) (rest : BitVec 21) :
    getBits (undefWord cond imm opcode rest) 26 2 = 0b00#2 := by
  simp (disch := decide) only [getBits, undefWord, BitVec.extractLsb'_append_eq_of_add_le, 
    BitVec.extractLsb'_append_eq_of_le, Nat.reduceSub, BitVec.extractLsb'_eq_self]

@[simp] theorem getBits_undefWord_imm (cond : Cond) (imm : Bool) (opcode : BitVec 4) (rest : BitVec 21) :
    getBits (undefWord cond imm opcode rest) 25 1 = bit imm := by
  simp (disch := decide) only [getBits, undefWord, BitVec.extractLsb'_append_eq_of_add_le, 
    BitVec.extractLsb'_append_eq_of_le, Nat.reduceSub, BitVec.extractLsb'_eq_self]

@[simp] theorem getBits_undefWord_opcode (cond : Cond) (imm : Bool) (opcode : BitVec 4) (rest : BitVec 21) :
    getBits (undefWord cond imm opcode rest) 21 4 = opcode := by
  simp (disch := decide) only [getBits, undefWord, BitVec.extractLsb'_append_eq_of_add_le, 
    BitVec.extractLsb'_append_eq_of_le, Nat.reduceSub, BitVec.extractLsb'_eq_self]

theorem getBits_undefWord_rest (cond : Cond) (imm : Bool) (opcode : BitVec 4) (rest : BitVec 21) (lo n : Nat) (h : lo + n ≤ 21) :
    getBits (undefWord cond imm opcode rest) lo n = rest.extractLsb' lo n := by
  simp only [getBits, undefWord, BitVec.extractLsb'_append_eq_of_add_le h]

@[simp] theorem getBits_mulWord_cond (cond : Cond) (ign : BitVec 4) (a upd : Bool) (rd rn rs rm : RegNo) :
    getBits (mulWord cond ign a upd rd rn rs rm) 28 4 = condBits cond := by
  simp (disch := decide) only [getBits, mulWord, 
    BitVec.extractLsb'_append_eq_of_le, Nat.reduceSub, BitVec.extractLsb'_eq_self]

@[simp] theorem getBits_mulWord_sel (cond : Cond) (ign : BitVec 4) (a upd : Bool) (rd rn rs rm : RegNo) :
    getBits (mulWord cond ign a upd rd rn rs rm) 26 2 = 0b00#2 := by
  simp (disch := decide) only [getBits, mulWord, BitVec.extractLsb'_append_eq_of_add_le, 
    BitVec.extractLsb'_append_eq_of_le, Nat.reduceSub, BitVec.extractLsb'_eq_self]

@[simp] theorem getBits_mulWord_ign (cond : Cond) (ign : BitVec 4) (a upd : Bool) (rd rn rs rm : RegNo) :
    getBits (mulWord cond ign a upd rd rn rs rm) 22 4 = ign := by
  simp (disch := decide) only [getBits, mulWord, BitVec.extractLsb'_append_eq_of_add_le, 
    BitVec.extractLsb'_append_eq_of_le, Nat.reduceSub, BitVec.extractLsb'_eq_self]

@[simp] theorem getBits_mulWord_acc (cond : Cond) (ign : BitVec 4) (a upd : Bool) (rd rn rs rm : RegNo) :
    getBits (mulWord cond ign a upd rd rn rs rm) 21 1 = bit a := by
  simp (disch := decide) only [getBits, mulWord, BitVec.extractLsb'_append_eq_of_add_le, 
    BitVec.extractLsb'_append_eq_of_le, Nat.reduceSub, BitVec.extractLsb'_eq_self]

@[simp] theorem getBits_mulWord_upd (cond : Cond) (ign : BitVec 4) (a upd : Bool) (rd rn rs rm : RegNo) :
    getBits (mulWord cond ign a upd rd rn rs rm) 20 1 = bit upd := by
  simp (disch := decide) only [getBits, mulWord, BitVec.extractLsb'_append_eq_of_add_le, 
    BitVec.extractLsb'_append_eq_of_le, Nat.reduceSub, BitVec.extractLsb'_eq_self]

@[simp] theorem getBits_mulWord_rd (cond : Cond) (ign : BitVec 4) (a upd : Bool) (rd rn rs rm : RegNo) :
    getBits (mulWord cond ign a upd rd rn rs rm) 16 4 = regBits rd := by
  simp (disch := decide) only [getBits, mulWord, BitVec.extractLsb'_append_eq_of_add_le, 
    BitVec.extractLsb'_append_eq_of_le, Nat.reduceSub, BitVec.extractLsb'_eq_self]

@[simp] theorem getBits_mulWord_rn (cond : Cond) (ign : BitVec 4) (a upd : Bool) (rd rn rs rm : RegNo) :
    getBits (mulWord cond ign a upd rd rn rs rm) 12 4 = regBits rn := by
  simp (disch := decide) only [getBits, mulWord, BitVec.extractLsb'_append_eq_of_add_le, 
    BitVec.extractLsb'_append_eq_of_le, Nat.reduceSub, BitVec.extractLsb'_eq_self]

@[simp] theorem getBits_mulWord_rs (cond : Cond) (ign : BitVec 4) (a upd : Bool) (rd rn rs rm : RegNo) :
    getBits (mulWord cond ign a upd rd rn rs rm) 8 4 = regBits rs := by
  simp (disch := decide) only [getBits, mulWord, BitVec.extractLsb'_append_eq_of_add_le, 
    BitVec.extractLsb'_append_eq_of_le, Nat.reduceSub, BitVec.extractLsb'_eq_self]

@[simp] theorem getBits_mulWord_marker (cond : Cond) (ign : BitVec 4) (a upd : Bool) (rd rn rs rm : RegNo) :
    getBits (mulWord cond ign a upd rd rn rs rm) 4 4 = 0b1001#4 := by
  simp (disch := decide) only [getBits, mulWord, BitVec.extractLsb'_append_eq_of_add_le, 
    BitVec.extractLsb'_append_eq_of_le, Nat.reduceSub, BitVec.extractLsb'_eq_self]

@[simp] theorem getBits_mulWord_rm (cond : Cond) (ign : BitVec 4) (a upd : Bool) (rd rn rs rm : RegNo) :
    getBits (mulWord cond ign a upd rd rn rs rm) 0 4 = regBits rm := by
  simp (disch := decide) only [getBits, mulWord, BitVec.extractLsb'_append_eq_of_add_le, BitVec.extractLsb'_eq_self]

@[simp] theorem getBits_branchWord_cond (cond : Cond) (l : Bool) (imm24 : BitVec 24) :
    getBits (branchWord cond l imm24) 28 4 = condBits cond := by
  simp (disch := decide) only [getBits, branchWord, 
    BitVec.extractLsb'_append_eq_of_le, Nat.reduceSub, BitVec.extractLsb'_eq_self]

@[simp] theorem getBits_branchWord_sel (cond : Cond) (l : Bool) (imm24 : BitVec 24) :
    getBits (branchWord cond l imm24) 26 2 = 0b10#2 := by
  simp (disch := decide) only [getBits, branchWord, BitVec.extractLsb'_append_eq_of_add_le, 
    BitVec.extractLsb'_append_eq_of_le, Nat.reduceSub]
  rfl

@[simp] theorem getBits_branchWord_bit25 (cond : Cond) (l : Bool) (imm24 : BitVec 24) :
    getBits (branchWord cond l imm24) 25 1 = 1#1 := by
  simp (disch := decide) only [getBits, branchWord, BitVec.extractLsb'_append_eq_of_add_le, 
    BitVec.extractLsb'_append_eq_of_le, Nat.reduceSub]
  rfl

@[simp] theorem getBits_branchWord_link (cond : Cond) (l : Bool) (imm24 : BitVec 24) :
    getBits (branchWord cond l imm24) 24 1 = bit l := by
  simp (disch := decide) only [getBits, branchWord, BitVec.extractLsb'_append_eq_of_add_le, 
    BitVec.extractLsb'_append_eq_of_le, Nat.reduceSub, BitVec.extractLsb'_eq_self]

@[simp] theorem getBits_branchWord_imm24 (cond : Cond) (l : Bool) (imm24 : BitVec 24) :
    getBits (branchWord cond l imm24) 0 24 = imm24 := by
  simp (disch := decide) only [getBits, branchWord, BitVec.extractLsb'_append_eq_of_add_le, BitVec.extractLsb'_eq_self]

@[simp] theorem getBits_lsWord_cond (cond : Cond) (i p u b22 w l : Bool) (rn rd : RegNo) (offset : BitVec 12) :
    getBits (lsWord cond i p u b22 w l rn rd offset) 28 4 = condBits cond := by
  simp (disch := decide) only [getBits, lsWord, 
    BitVec.extractLsb'_append_eq_of_le, Nat.reduceSub, BitVec.extractLsb'_eq_self]

@[simp] theorem getBits_lsWord_sel (cond : Cond) (i p u b22 w l : Bool) (rn rd : RegNo) (offset : BitVec 12) :
    getBits (lsWord cond i p u b22 w l rn rd offset) 26 2 = 0b01#2 := by
  simp (disch := decide) only [getBits, lsWord, BitVec.extractLsb'_append_eq_of_add_le, 
    BitVec.extractLsb'_append_eq_of_le, Nat.reduceSub, BitVec.extractLsb'_eq_self]

@[simp] theorem getBits_lsWord_imm (cond : Cond) (i p u b22 w l : Bool) (rn rd : RegNo) (offset : BitVec 12) :
    getBits (lsWord cond i p u b22 w l rn rd offset) 25 1 = bit i := by
  simp (disch := decide) only [getBits, lsWord, BitVec.extractLsb'_append_eq_of_add_le, 
    BitVec.extractLsb'_append_eq_of_le, Nat.reduceSub, BitVec.extractLsb'_eq_self]

@[simp] theorem getBits_lsWord_pre (cond : Cond) (i p u b22 w l : Bool) (rn rd : RegNo) (offset : BitVec 12) :
    getBits (lsWord cond i p u b22 w l rn rd offset) 24 1 = bit p := by
  simp (disch := decide) only [getBits, lsWord, BitVec.extractLsb'_append_eq_of_add_le, 
    BitVec.extractLsb'_append_eq_of_le, Nat.reduceSub, BitVec.extractLsb'_eq_self]

@[simp] theorem getBits_lsWord_up (cond : Cond) (i p u b22 w l : Bool) (rn rd : RegNo) (offset : BitVec 12) :
    getBits (lsWord cond i p u b22 w l rn rd offset) 23 1 = bit u := by
  simp (disch := decide) only [getBits, lsWord, BitVec.extractLsb'_append_eq_of_add_le, 
    BitVec.extractLsb'_append_eq_of_le, Nat.reduceSub, BitVec.extractLsb'_eq_self]

@[simp] theorem getBits_lsWord_b22 (cond : Cond) (i p u b22 w l : Bool) (rn rd : RegNo) (offset : BitVec 12) :
    getBits (lsWord cond i p u b22 w l rn rd offset) 22 1 = bit b22 := by
  simp (disch := decide) only [getBits, lsWord, BitVec.extractLsb'_append_eq_of_add_le, 
    BitVec.extractLsb'_append_eq_of_le, Nat.reduceSub, BitVec.extractLsb'_eq_self]

@[simp] theorem getBits_lsWord_writeback (cond : Cond) (i p u b22 w l : Bool) (rn rd : RegNo) (offset : BitVec 12) :
    getBits (lsWord cond i p u b22 w l rn rd offset) 21 1 = bit w := by
  simp (disch := decide) only [getBits, lsWord, BitVec.extractLsb'_append_eq_of_add_le, 
    BitVec.extractLsb'_append_eq_of_le, Nat.reduceSub, BitVec.extractLsb'_eq_self]

@[simp] theorem getBits_lsWord_load (cond : Cond) (i p u b22 w l : Bool) (rn rd : RegNo) (offset : BitVec 12) :
    getBits (lsWord cond i p u b22 w l rn rd offset) 20 1 = bit l := by
  simp (disch := decide) only [getBits, lsWord, BitVec.extractLsb'_append_eq_of_add_le, 
    BitVec.extractLsb'_append_eq_of_le, Nat.reduceSub, BitVec.extractLsb'_eq_self]

@[simp] theorem getBits_lsWord_rn (cond : Cond) (i p u b22 w l : Bool) (rn rd : RegNo) (offset : BitVec 12) :
    getBits (lsWord cond i p u b22 w l rn rd offset) 16 4 = regBits rn := by
  simp (disch := decide) only [getBits, lsWord, BitVec.extractLsb'_append_eq_of_add_le, 
    BitVec.extractLsb'_append_eq_of_le, Nat.reduceSub, BitVec.extractLsb'_eq_self]

@[simp] theorem getBits_lsWord_rd (cond : Cond) (i p u b22 w l : Bool) (rn rd : RegNo) (offset : BitVec 12) :
    getBits (lsWord cond i p u b22 w l rn rd offset) 12 4 = regBits rd := by
  simp (disch := decide) only [getBits, lsWord, BitVec.extractLsb'_append_eq_of_add_le, 
    BitVec.extractLsb'_append_eq_of_le, Nat.reduceSub, BitVec.extractLsb'_eq_self]

theorem getBits_lsWord_offset (cond : Cond) (i p u b22 w l : Bool) (rn rd : RegNo) (offset : BitVec 12) (lo n : Nat) (h : lo + n ≤ 12) :
    getBits (lsWord cond i p u b22 w l rn rd offset) lo n = offset.extractLsb' lo n := by
  simp only [getBits, lsWord, BitVec.extractLsb'_append_eq_of_add_le h]

@[simp] theorem getBits_swiWord_cond (cond : Cond) (service : BitVec 24) :
    getBits (swiWord cond service) 28 4 = condBits cond := by
  simp (disch := decide) only [getBits, swiWord, 
    BitVec.extractLsb'_append_eq_of_le, Nat.reduceSub, BitVec.extractLsb'_eq_self]

@[simp] theorem getBits_swiWord_sel (cond : Cond) (service : BitVec 24) :
    getBits (swiWord cond service) 26 2 = 0b11#2 := by
  simp (disch := decide) only [getBits, swiWord, BitVec.extractLsb'_append_eq_of_add_le, 
    BitVec.extractLsb'_append_eq_of_le, Nat.reduceSub]
  rfl

@[simp] theorem getBits_swiWord_mark (cond : Cond) (service : BitVec 24) :
    getBits (swiWord cond service) 24 2 = 0b11#2 := by
  simp (disch := decide) only [getBits, swiWord, BitVec.extractLsb'_append_eq_of_add_le, 
    BitVec.extractLsb'_append_eq_of_le, Nat.reduceSub]
  rfl

@[simp] theorem getBits_swiWord_service (cond : Cond) (service : BitVec 24) :
    getBits (swiWord cond service) 0 24 = service := by
  simp (disch := decide) only [getBits, swiWord, BitVec.extractLsb'_append_eq_of_add_le, BitVec.extractLsb'_eq_self]

/-! Operand fields -/

theorem op2Imm_rotate (rotate : BitVec 4) (imm8 : BitVec 8) : (op2Imm rotate imm8).extractLsb' 8 4 = rotate := by
  simp (disch := decide) only [op2Imm, BitVec.extractLsb'_append_eq_of_le, Nat.reduceSub, BitVec.extractLsb'_eq_self]

theorem op2Imm_low (rotate : BitVec 4) (imm8 : BitVec 8) (lo n : Nat) (h : lo + n ≤ 8) :
    (op2Imm rotate imm8).extractLsb' lo n = imm8.extractLsb' lo n := by
  simp only [op2Imm, BitVec.extractLsb'_append_eq_of_add_le h]

theorem op2ShiftImm_fields (shamt : BitVec 5) (kind : ShiftKind) (rm : RegNo) :
    (op2ShiftImm shamt kind rm).extractLsb' 7 5 = shamt ∧ (op2ShiftImm shamt kind rm).extractLsb' 6 1 = 0#1 ∧
      (op2ShiftImm shamt kind rm).extractLsb' 5 1 = bit (kind == .lsr) ∧
      (op2ShiftImm shamt kind rm).extractLsb' 4 1 = 0#1 ∧
      (op2ShiftImm shamt kind rm).extractLsb' 0 4 = regBits rm := by
  refine ⟨?_, ?_, ?_, ?_, ?_⟩ <;>
    simp (disch := decide) only [op2ShiftImm, BitVec.extractLsb'_append_eq_of_add_le,
      BitVec.extractLsb'_append_eq_of_le, Nat.reduceSub, BitVec.extractLsb'_eq_self] <;>
    cases kind <;> rfl

theorem op2ShiftReg_fields (rs : RegNo) (kind : ShiftKind) (rm : RegNo) :
    (op2ShiftReg rs kind rm).extractLsb' 8 4 = regBits rs ∧ (op2ShiftReg rs kind rm).extractLsb' 7 1 = 0#1 ∧
      (op2ShiftReg rs kind rm).extractLsb' 6 1 = 0#1 ∧ (op2ShiftReg rs kind rm).extractLsb' 5 1 = bit (kind == .lsr) ∧
      (op2ShiftReg rs kind rm).extractLsb' 4 1 = 1#1 ∧ (op2ShiftReg rs kind rm).extractLsb' 0 4 = regBits rm := by
  refine ⟨?_, ?_, ?_, ?_, ?_, ?_⟩ <;>
    simp (disch := decide) only [op2ShiftReg, BitVec.extractLsb'_append_eq_of_add_le,
      BitVec.extractLsb'_append_eq_of_le, Nat.reduceSub, BitVec.extractLsb'_eq_self] <;>
    cases kind <;> rfl

theorem offsetReg_fields (rm : RegNo) :
    (offsetReg rm).extractLsb' 4 8 = 0#8 ∧ (offsetReg rm).extractLsb' 0 4 = regBits rm := by
  refine ⟨?_, ?_⟩ <;>
    simp (disch := decide) only [offsetReg, BitVec.extractLsb'_append_eq_of_add_le,
      BitVec.extractLsb'_append_eq_of_le, Nat.reduceSub, BitVec.extractLsb'_eq_self]

/-! The classifier on the formats (R86) -/

theorem classify_dpWord (cond : Cond) (i : Bool) (opcode : BitVec 4) (upd : Bool) (rn rd : RegNo)
    (op2 : BitVec 12) (h : op2.extractLsb' 4 4 ≠ 0b1001#4) :
    classify (dpWord cond i opcode upd rn rd op2) = .dataProcessing := by
  simp [classify, getBits_dpWord_op2 _ _ _ _ _ _ _ 4 4 (by decide), h]

theorem classify_undefWord (cond : Cond) (imm : Bool) (opcode : BitVec 4) (rest : BitVec 21)
    (h : rest.extractLsb' 4 4 ≠ 0b1001#4) : classify (undefWord cond imm opcode rest) = .dataProcessing := by
  simp [classify, getBits_undefWord_rest _ _ _ _ 4 4 (by decide), h]

@[simp] theorem classify_mulWord (cond : Cond) (ign : BitVec 4) (a upd : Bool) (rd rn rs rm : RegNo) :
    classify (mulWord cond ign a upd rd rn rs rm) = .multiply := by simp [classify]

@[simp] theorem classify_branchWord (cond : Cond) (l : Bool) (imm24 : BitVec 24) :
    classify (branchWord cond l imm24) = .branch := by simp [classify, getBit]

@[simp] theorem classify_lsWord (cond : Cond) (i p u b22 w l : Bool) (rn rd : RegNo) (offset : BitVec 12) :
    classify (lsWord cond i p u b22 w l rn rd offset) = .loadStore := by simp [classify]

@[simp] theorem classify_swiWord (cond : Cond) (service : BitVec 24) :
    classify (swiWord cond service) = .softwareInterrupt := by simp [classify]

/-- Shifted-register operands never hold the multiply marker: bit 6 is 0 and bits 4 and 7 are not both 1. -/
theorem op2ShiftImm_not_marker (shamt : BitVec 5) (kind : ShiftKind) (rm : RegNo) :
    (op2ShiftImm shamt kind rm).extractLsb' 4 4 ≠ 0b1001#4 := by
  intro h
  have h4 := (op2ShiftImm_fields shamt kind rm).2.2.2.1
  have : (op2ShiftImm shamt kind rm).extractLsb' 4 1 = ((op2ShiftImm shamt kind rm).extractLsb' 4 4).extractLsb' 0 1 := by
    ext j hj
    simp [show j = 0 by omega]
  rw [h, h4] at this
  revert this
  decide

theorem op2ShiftReg_not_marker (rs : RegNo) (kind : ShiftKind) (rm : RegNo) :
    (op2ShiftReg rs kind rm).extractLsb' 4 4 ≠ 0b1001#4 := by
  intro h
  have h7 := (op2ShiftReg_fields rs kind rm).2.1
  have : (op2ShiftReg rs kind rm).extractLsb' 7 1 = ((op2ShiftReg rs kind rm).extractLsb' 4 4).extractLsb' 3 1 := by
    ext j hj
    simp [show j = 0 by omega]
  rw [h, h7] at this
  revert this
  decide


end Sys2Proof
end

