-- ==== Sys2Proof/Laws/State.lean ====
section
/-! SUPPORT. One lemma per field per update of the state, true by rfl, and the register file's two laws. -/

namespace Sys2Proof.Machine

@[simp] theorem State.setReg_regs (s : State) (r : RegNo) (v : Word) : (s.setReg r v).regs = s.regs.set r.val v := rfl
@[simp] theorem State.setReg_flags (s : State) (r : RegNo) (v : Word) : (s.setReg r v).flags = s.flags := rfl
@[simp] theorem State.setReg_mem (s : State) (r : RegNo) (v : Word) : (s.setReg r v).mem = s.mem := rfl
@[simp] theorem State.setReg_halted (s : State) (r : RegNo) (v : Word) : (s.setReg r v).halted = s.halted := rfl
@[simp] theorem State.setReg_diag (s : State) (r : RegNo) (v : Word) : (s.setReg r v).diag = s.diag := rfl
@[simp] theorem State.setReg_draws (s : State) (r : RegNo) (v : Word) : (s.setReg r v).draws = s.draws := rfl
@[simp] theorem State.setReg_params (s : State) (r : RegNo) (v : Word) : (s.setReg r v).params = s.params := rfl

@[simp] theorem State.setFlags_regs (s : State) (f : Flags) : (s.setFlags f).regs = s.regs := rfl
@[simp] theorem State.setFlags_flags (s : State) (f : Flags) : (s.setFlags f).flags = f := rfl
@[simp] theorem State.setFlags_mem (s : State) (f : Flags) : (s.setFlags f).mem = s.mem := rfl
@[simp] theorem State.setFlags_halted (s : State) (f : Flags) : (s.setFlags f).halted = s.halted := rfl
@[simp] theorem State.setFlags_diag (s : State) (f : Flags) : (s.setFlags f).diag = s.diag := rfl
@[simp] theorem State.setFlags_draws (s : State) (f : Flags) : (s.setFlags f).draws = s.draws := rfl
@[simp] theorem State.setFlags_params (s : State) (f : Flags) : (s.setFlags f).params = s.params := rfl

@[simp] theorem State.setFlags_reg (s : State) (f : Flags) (q : RegNo) : (s.setFlags f).reg q = s.reg q := rfl

@[simp] theorem State.setFlags_pc (s : State) (f : Flags) : (s.setFlags f).pc = s.pc := rfl

@[simp] theorem State.halt_regs (s : State) : (s.halt).regs = s.regs := rfl
@[simp] theorem State.halt_flags (s : State) : (s.halt).flags = s.flags := rfl
@[simp] theorem State.halt_mem (s : State) : (s.halt).mem = s.mem := rfl
@[simp] theorem State.halt_halted (s : State) : (s.halt).halted = true := rfl
@[simp] theorem State.halt_diag (s : State) : (s.halt).diag = s.diag := rfl
@[simp] theorem State.halt_draws (s : State) : (s.halt).draws = s.draws := rfl
@[simp] theorem State.halt_params (s : State) : (s.halt).params = s.params := rfl

@[simp] theorem State.halt_reg (s : State) (q : RegNo) : (s.halt).reg q = s.reg q := rfl

@[simp] theorem State.halt_pc (s : State) : (s.halt).pc = s.pc := rfl

@[simp] theorem State.emit_regs (s : State) (e : DiagEvent) : (s.emit e).regs = s.regs := rfl
@[simp] theorem State.emit_flags (s : State) (e : DiagEvent) : (s.emit e).flags = s.flags := rfl
@[simp] theorem State.emit_mem (s : State) (e : DiagEvent) : (s.emit e).mem = s.mem := rfl
@[simp] theorem State.emit_halted (s : State) (e : DiagEvent) : (s.emit e).halted = s.halted := rfl
@[simp] theorem State.emit_diag (s : State) (e : DiagEvent) : (s.emit e).diag = s.diag ++ [⟨e, s.regs⟩] := rfl
@[simp] theorem State.emit_draws (s : State) (e : DiagEvent) : (s.emit e).draws = s.draws := rfl
@[simp] theorem State.emit_params (s : State) (e : DiagEvent) : (s.emit e).params = s.params := rfl

@[simp] theorem State.emit_reg (s : State) (e : DiagEvent) (q : RegNo) : (s.emit e).reg q = s.reg q := rfl

@[simp] theorem State.emit_pc (s : State) (e : DiagEvent) : (s.emit e).pc = s.pc := rfl

@[simp] theorem State.setMem_regs (s : State) (m : Memory) : (s.setMem m).regs = s.regs := rfl
@[simp] theorem State.setMem_flags (s : State) (m : Memory) : (s.setMem m).flags = s.flags := rfl
@[simp] theorem State.setMem_mem (s : State) (m : Memory) : (s.setMem m).mem = m := rfl
@[simp] theorem State.setMem_halted (s : State) (m : Memory) : (s.setMem m).halted = s.halted := rfl
@[simp] theorem State.setMem_diag (s : State) (m : Memory) : (s.setMem m).diag = s.diag := rfl
@[simp] theorem State.setMem_draws (s : State) (m : Memory) : (s.setMem m).draws = s.draws := rfl
@[simp] theorem State.setMem_params (s : State) (m : Memory) : (s.setMem m).params = s.params := rfl

@[simp] theorem State.setMem_reg (s : State) (m : Memory) (q : RegNo) : (s.setMem m).reg q = s.reg q := rfl

@[simp] theorem State.setMem_pc (s : State) (m : Memory) : (s.setMem m).pc = s.pc := rfl

@[simp] theorem State.countDraw_regs (s : State) : (s.countDraw).regs = s.regs := rfl
@[simp] theorem State.countDraw_flags (s : State) : (s.countDraw).flags = s.flags := rfl
@[simp] theorem State.countDraw_mem (s : State) : (s.countDraw).mem = s.mem := rfl
@[simp] theorem State.countDraw_halted (s : State) : (s.countDraw).halted = s.halted := rfl
@[simp] theorem State.countDraw_diag (s : State) : (s.countDraw).diag = s.diag := rfl
@[simp] theorem State.countDraw_draws (s : State) : (s.countDraw).draws = s.draws + 1 := rfl
@[simp] theorem State.countDraw_params (s : State) : (s.countDraw).params = s.params := rfl

@[simp] theorem State.countDraw_reg (s : State) (q : RegNo) : (s.countDraw).reg q = s.reg q := rfl

@[simp] theorem State.countDraw_pc (s : State) : (s.countDraw).pc = s.pc := rfl

@[simp] theorem State.memWrite_regs (s : State) (a : Word) (n : Nat) (v : Word) : (s.memWrite a n v).regs = s.regs := rfl
@[simp] theorem State.memWrite_flags (s : State) (a : Word) (n : Nat) (v : Word) : (s.memWrite a n v).flags = s.flags := rfl
@[simp] theorem State.memWrite_mem (s : State) (a : Word) (n : Nat) (v : Word) : (s.memWrite a n v).mem = memStore s.mem a n v := rfl
@[simp] theorem State.memWrite_halted (s : State) (a : Word) (n : Nat) (v : Word) : (s.memWrite a n v).halted = s.halted := rfl
@[simp] theorem State.memWrite_diag (s : State) (a : Word) (n : Nat) (v : Word) : (s.memWrite a n v).diag = s.diag := rfl
@[simp] theorem State.memWrite_draws (s : State) (a : Word) (n : Nat) (v : Word) : (s.memWrite a n v).draws = s.draws := rfl
@[simp] theorem State.memWrite_params (s : State) (a : Word) (n : Nat) (v : Word) : (s.memWrite a n v).params = s.params := rfl

@[simp] theorem State.memWrite_reg (s : State) (a : Word) (n : Nat) (v : Word) (q : RegNo) : (s.memWrite a n v).reg q = s.reg q := rfl

@[simp] theorem State.memWrite_pc (s : State) (a : Word) (n : Nat) (v : Word) : (s.memWrite a n v).pc = s.pc := rfl

/-- A register reads what was written to it (spec/10_state.md R25). -/
@[simp] theorem State.reg_setReg_same (s : State) (r : RegNo) (v : Word) : (s.setReg r v).reg r = v := by
  simp [State.reg, State.setReg]

/-- A write leaves every other register alone. -/
theorem State.reg_setReg_of_ne (s : State) (r q : RegNo) (v : Word) (h : q ≠ r) : (s.setReg r v).reg q = s.reg q := by
  have : r.val ≠ q.val := fun e => h (Fin.ext e.symm)
  simp [State.reg, State.setReg, this]

/-- Reading after a write, both cases at once. -/
theorem State.reg_setReg (s : State) (r q : RegNo) (v : Word) :
    (s.setReg r v).reg q = if q = r then v else s.reg q := by
  by_cases h : q = r
  · simp [h]
  · simp [h, State.reg_setReg_of_ne s r q v h]

/-- The program counter after a write to register 15. -/
@[simp] theorem State.pc_setReg_pcNum (s : State) (v : Word) : (s.setReg pcNum v).pc = v := State.reg_setReg_same s 15 v

/-- The program counter is register 15. -/
theorem State.pc_eq (s : State) : s.pc = s.reg pcNum := rfl

/-! The base update, field by field -/

@[simp] theorem State.updateBase_flags (s : State) (mode : AddrMode) (rn : RegNo) (v : Word) :
    (s.updateBase mode rn v).flags = s.flags := by
  cases mode <;> rfl

@[simp] theorem State.updateBase_mem (s : State) (mode : AddrMode) (rn : RegNo) (v : Word) :
    (s.updateBase mode rn v).mem = s.mem := by
  cases mode <;> rfl

@[simp] theorem State.updateBase_halted (s : State) (mode : AddrMode) (rn : RegNo) (v : Word) :
    (s.updateBase mode rn v).halted = s.halted := by
  cases mode <;> rfl

@[simp] theorem State.updateBase_diag (s : State) (mode : AddrMode) (rn : RegNo) (v : Word) :
    (s.updateBase mode rn v).diag = s.diag := by
  cases mode <;> rfl

@[simp] theorem State.updateBase_draws (s : State) (mode : AddrMode) (rn : RegNo) (v : Word) :
    (s.updateBase mode rn v).draws = s.draws := by
  cases mode <;> rfl

@[simp] theorem State.updateBase_params (s : State) (mode : AddrMode) (rn : RegNo) (v : Word) :
    (s.updateBase mode rn v).params = s.params := by
  cases mode <;> rfl

/-- The registers after the base update (spec/45_load_store.md R245). -/
theorem State.reg_updateBase (s : State) (mode : AddrMode) (rn q : RegNo) (v : Word) :
    (s.updateBase mode rn v).reg q = if updatesBase mode = true ∧ q = rn then v else s.reg q := by
  cases mode <;> simp [State.updateBase, updatesBase, State.reg_setReg]

/-! Extensionality: states with the same registers, read one by one, and the same other fields are the same -/

theorem State.regs_ext (s t : State) (h : ∀ r : RegNo, s.reg r = t.reg r) : s.regs = t.regs := by
  apply Vector.ext
  intro i hi
  exact h ⟨i, hi⟩

end Sys2Proof.Machine
end

