-- ==== Sys2Proof/Laws/Memory.lean ====
section
/-! SUPPORT. The laws of the memory operations: a read after a write, the canonical form, and what a read and a fetch
can do to the state. -/

namespace Sys2Proof.Machine

/-! Lookup after insert -/

/-- The byte just written is read (spec/20_memory.md R66 a). -/
@[simp] theorem memLookup_memInsert_same (m : Memory) (a : Nat) (b : Byte) :
    memLookup (memInsert m a b) a = some b := by
  induction m with
  | nil => simp [memInsert, memLookup]
  | cons p t ih =>
    obtain ⟨k, x⟩ := p
    by_cases h1 : a < k
    · simp [memInsert, memLookup, h1]
    · by_cases h2 : a = k
      · simp [memInsert, memLookup, h2]
      · simp [memInsert, memLookup, h1, h2, ih]

/-- Every other address reads as before. -/
theorem memLookup_memInsert_of_ne (m : Memory) (a c : Nat) (b : Byte) (h : c ≠ a) :
    memLookup (memInsert m a b) c = memLookup m c := by
  induction m with
  | nil => simp [memInsert, memLookup, h]
  | cons p t ih =>
    obtain ⟨k, x⟩ := p
    by_cases h1 : a < k
    · simp [memInsert, memLookup, h1, h]
    · by_cases h2 : a = k
      · subst h2
        simp [memInsert, memLookup, h]
      · simp [memInsert, memLookup, h1, h2, ih]

/-- Both cases at once. -/
theorem memLookup_memInsert (m : Memory) (a c : Nat) (b : Byte) :
    memLookup (memInsert m a b) c = if c = a then some b else memLookup m c := by
  by_cases h : c = a
  · simp [h]
  · simp [h, memLookup_memInsert_of_ne m a c b h]

/-! The canonical form -/

/-- Every address in a memory after an insert is the inserted one or an old one. -/
theorem mem_memInsert (m : Memory) (a : Nat) (b : Byte) (p : Host.Cell) (h : p ∈ memInsert m a b) :
    p = (a, b) ∨ p ∈ m := by
  induction m with
  | nil => simpa [memInsert] using h
  | cons q t ih =>
    obtain ⟨k, x⟩ := q
    by_cases h1 : a < k
    · simpa [memInsert, h1] using h
    · by_cases h2 : a = k
      · subst h2
        simp only [memInsert, Nat.lt_irrefl, if_false, if_true, List.mem_cons] at h
        rcases h with h | h
        · exact .inl h
        · exact .inr (List.mem_cons_of_mem _ h)
      · simp only [memInsert, h1, h2, if_false, List.mem_cons] at h
        rcases h with h | h
        · exact .inr (by simp [h])
        · rcases ih h with h | h
          · exact .inl h
          · exact .inr (List.mem_cons_of_mem _ h)

/-- An insert keeps the canonical form. -/
theorem memInsert_wf (m : Memory) (a : Nat) (b : Byte) (h : m.wf) (ha : a < 2 ^ 32) : (memInsert m a b).wf := by
  refine ⟨?_, fun p hp => ?_⟩
  · have hp := h.1
    clear h
    induction m with
    | nil => simp [memInsert]
    | cons q t ih =>
      obtain ⟨k, x⟩ := q
      rw [List.pairwise_cons] at hp
      by_cases h1 : a < k
      · simp only [memInsert, h1, if_true, List.pairwise_cons]
        refine ⟨fun p hm => ?_, hp⟩
        rcases List.mem_cons.mp hm with rfl | hm
        · exact h1
        · exact Nat.lt_trans h1 (hp.1 p hm)
      · by_cases h2 : a = k
        · subst h2
          simpa [memInsert] using hp
        · simp only [memInsert, h1, h2, if_false, List.pairwise_cons]
          refine ⟨fun p hm => ?_, ih hp.2⟩
          rcases mem_memInsert t a b p hm with rfl | hm
          · exact Nat.lt_of_le_of_ne (Nat.le_of_not_lt h1) (Ne.symm h2)
          · exact hp.1 p hm
  · rcases mem_memInsert m a b p hp with rfl | hp
    · exact ha
    · exact h.2 p hp

/-- A store of any number of bytes keeps the canonical form. -/
theorem memStore_wf (m : Memory) (a : Word) (n : Nat) (v : Word) (h : m.wf) : (memStore m a n v).wf := by
  induction n generalizing m a v with
  | zero => exact h
  | succ n ih => exact ih _ _ _ (memInsert_wf m _ _ h a.isLt)

/-- A store of one byte, as one insert. -/
theorem memStore_one (m : Memory) (a : Word) (v : Word) : memStore m a 1 v = memInsert m a.toNat (getBits v 0 8) := rfl

/-- A written byte stays written, whatever is inserted (spec/20_memory.md R51: memory grows only). -/
theorem memLookup_memInsert_isSome (m : Memory) (a c : Nat) (b : Byte) (h : (memLookup m c).isSome) :
    (memLookup (memInsert m a b) c).isSome := by
  rw [memLookup_memInsert]
  split <;> simp_all

/-- The same for a store. -/
theorem memLookup_memStore_isSome (m : Memory) (a : Word) (n : Nat) (v : Word) (c : Nat) (h : (memLookup m c).isSome) :
    (memLookup (memStore m a n v) c).isSome := by
  induction n generalizing m a v with
  | zero => exact h
  | succ n ih => exact ih _ _ _ (memLookup_memInsert_isSome m _ c _ h)

/-! What a read can do -/

/-- A read touches nothing but the draw counter. -/
theorem readByte_frame (s : State) (a : Word) :
    (readByte s a).2.regs = s.regs ∧ (readByte s a).2.flags = s.flags ∧ (readByte s a).2.mem = s.mem ∧
      (readByte s a).2.halted = s.halted ∧ (readByte s a).2.diag = s.diag ∧ (readByte s a).2.params = s.params := by
  unfold readByte State.afterFill
  split
  · exact ⟨rfl, rfl, rfl, rfl, rfl, rfl⟩
  · split <;> exact ⟨rfl, rfl, rfl, rfl, rfl, rfl⟩

@[simp] theorem readByte_regs (s : State) (a : Word) : (readByte s a).2.regs = s.regs := (readByte_frame s a).1
@[simp] theorem readByte_flags (s : State) (a : Word) : (readByte s a).2.flags = s.flags := (readByte_frame s a).2.1
@[simp] theorem readByte_mem (s : State) (a : Word) : (readByte s a).2.mem = s.mem := (readByte_frame s a).2.2.1
@[simp] theorem readByte_halted (s : State) (a : Word) : (readByte s a).2.halted = s.halted :=
  (readByte_frame s a).2.2.2.1
@[simp] theorem readByte_diag (s : State) (a : Word) : (readByte s a).2.diag = s.diag :=
  (readByte_frame s a).2.2.2.2.1
@[simp] theorem readByte_params (s : State) (a : Word) : (readByte s a).2.params = s.params :=
  (readByte_frame s a).2.2.2.2.2

/-- A written byte is read as it was written, and nothing changes (spec/20_memory.md R51, R58). -/
theorem readByte_of_some (s : State) (a : Word) (b : Byte) (h : memLookup s.mem a.toNat = some b) :
    readByte s a = (b, s) := by
  simp [readByte, h]

/-- In deterministic mode a never-written byte reads as 0x00, and nothing changes (spec/20_memory.md R52). -/
theorem readByte_of_none_deterministic (s : State) (a : Word) (h : memLookup s.mem a.toNat = none)
    (hm : s.params.fillMode = .deterministic) : readByte s a = (0#8, s) := by
  simp [readByte, h, fillByte, State.afterFill, hm]

/-- In random mode it reads as the next draw, which is counted (spec/20_memory.md R52). -/
theorem readByte_of_none_random (s : State) (a : Word) (h : memLookup s.mem a.toNat = none)
    (hm : s.params.fillMode = .random) : readByte s a = (Config.fillDraw s.draws, s.countDraw) := by
  simp [readByte, h, fillByte, State.afterFill, hm]

@[simp] theorem readWord_regs (s : State) (a : Word) : (readWord s a).2.regs = s.regs := by simp [readWord]
@[simp] theorem readWord_flags (s : State) (a : Word) : (readWord s a).2.flags = s.flags := by simp [readWord]
@[simp] theorem readWord_mem (s : State) (a : Word) : (readWord s a).2.mem = s.mem := by simp [readWord]
@[simp] theorem readWord_halted (s : State) (a : Word) : (readWord s a).2.halted = s.halted := by simp [readWord]
@[simp] theorem readWord_diag (s : State) (a : Word) : (readWord s a).2.diag = s.diag := by simp [readWord]
@[simp] theorem readWord_params (s : State) (a : Word) : (readWord s a).2.params = s.params := by simp [readWord]
@[simp] theorem readWord_reg (s : State) (a : Word) (r : RegNo) : (readWord s a).2.reg r = s.reg r := by
  simp [State.reg]

/-- A word read of four written bytes: the bytes, least significant first, and no change (spec/20_memory.md R53). -/
theorem readWord_of_some (s : State) (a : Word) (b0 b1 b2 b3 : Byte) (h0 : memLookup s.mem a.toNat = some b0)
    (h1 : memLookup s.mem (a + 1#32).toNat = some b1) (h2 : memLookup s.mem (a + 2#32).toNat = some b2)
    (h3 : memLookup s.mem (a + 3#32).toNat = some b3) : readWord s a = (wordOfBytes b0 b1 b2 b3, s) := by
  simp [readWord, readByte_of_some _ _ _ h0, readByte_of_some _ _ _ h1, readByte_of_some _ _ _ h2,
    readByte_of_some _ _ _ h3]

/-! What a fetch can do (spec/10_state.md R23) -/

@[simp] theorem fetch_flags (s : State) : (fetch s).2.flags = s.flags := by simp [fetch]
@[simp] theorem fetch_mem (s : State) : (fetch s).2.mem = s.mem := by simp [fetch]
@[simp] theorem fetch_halted (s : State) : (fetch s).2.halted = s.halted := by simp [fetch]
@[simp] theorem fetch_diag (s : State) : (fetch s).2.diag = s.diag := by simp [fetch]
@[simp] theorem fetch_params (s : State) : (fetch s).2.params = s.params := by simp [fetch]
@[simp] theorem fetch_pc (s : State) : (fetch s).2.pc = s.pc + 4#32 := by simp [fetch]

/-- The fetch writes register 15 only. -/
theorem fetch_reg_of_ne (s : State) (r : RegNo) (h : r ≠ pcNum) : (fetch s).2.reg r = s.reg r := by
  simp [fetch, State.reg_setReg_of_ne _ _ _ _ h]

end Sys2Proof.Machine
end

