-- ==== Sys2Proof/Laws/Meanings.lean ====
section
/-! SUPPORT. For each shared operation of the meanings, what it can do, field by field; and what a step can do. -/

namespace Sys2Proof.Machine

/-! The gate (spec/40_step_and_condition.md R132) -/

theorem whenPassed_of_passed (cond : Cond) (s : State) (e : State → State) (h : conditionPassed cond s.flags = true) :
    whenPassed cond s e = .next (e s) := by simp [whenPassed, h]

theorem whenPassed_of_failed (cond : Cond) (s : State) (e : State → State) (h : conditionPassed cond s.flags = false) :
    whenPassed cond s e = .next s := by simp [whenPassed, h]

/-- A gated meaning answers the state it started with or its effect on it. -/
theorem whenPassed_cases (cond : Cond) (s t : State) (e : State → State) (h : whenPassed cond s e = .next t) :
    (conditionPassed cond s.flags = true ∧ t = e s) ∨ (conditionPassed cond s.flags = false ∧ t = s) := by
  cases hc : conditionPassed cond s.flags
  · right
    rw [whenPassed_of_failed cond s e hc] at h
    exact ⟨rfl, by injection h with h; exact h.symm⟩
  · left
    rw [whenPassed_of_passed cond s e hc] at h
    exact ⟨rfl, by injection h with h; exact h.symm⟩

/-- The gate of the loads and stores that write the base back: refused exactly when rd = rn (R241). -/
theorem unlessReserved_of_ne (mode : AddrMode) (cond : Cond) (rn rd : RegNo) (s : State) (e : State → State)
    (h : rn ≠ rd) : unlessReserved mode cond rn rd s e = whenPassed cond s e := by simp [unlessReserved, h]

theorem unlessReserved_self (mode : AddrMode) (cond : Cond) (r : RegNo) (s : State) (e : State → State)
    (h : updatesBase mode = true) : unlessReserved mode cond r r s e = .refused .reservedBaseUpdate := by
  simp [unlessReserved, h]

theorem unlessReserved_cases (mode : AddrMode) (cond : Cond) (rn rd : RegNo) (s t : State) (e : State → State)
    (h : unlessReserved mode cond rn rd s e = .next t) : whenPassed cond s e = .next t := by
  unfold unlessReserved at h
  split at h
  · cases h
  · exact h

/-! DataProcessing and Multiply (spec/42_data_processing.md R170, spec/43_multiply.md R210) -/

section
variable (alu : AluOp) (upd : Bool) (rn rd q : RegNo) (b : Word) (s : State)

@[simp] theorem dpWrite_flags : (dpWrite alu upd rn rd b s).flags = (alu (s.reg rn) b upd s.flags).flags := rfl
@[simp] theorem dpWrite_mem : (dpWrite alu upd rn rd b s).mem = s.mem := rfl
@[simp] theorem dpWrite_halted : (dpWrite alu upd rn rd b s).halted = s.halted := rfl
@[simp] theorem dpWrite_diag : (dpWrite alu upd rn rd b s).diag = s.diag := rfl
@[simp] theorem dpWrite_draws : (dpWrite alu upd rn rd b s).draws = s.draws := rfl
@[simp] theorem dpWrite_params : (dpWrite alu upd rn rd b s).params = s.params := rfl

theorem dpWrite_reg : (dpWrite alu upd rn rd b s).reg q =
    if q = rd then (alu (s.reg rn) b upd s.flags).value else s.reg q := by
  simp only [dpWrite, State.reg_setReg]
  rfl

@[simp] theorem dpCompare_reg : (dpCompare rn b s).reg q = s.reg q := rfl
@[simp] theorem dpCompare_flags : (dpCompare rn b s).flags = aluCmp (s.reg rn) b := rfl
@[simp] theorem dpCompare_mem : (dpCompare rn b s).mem = s.mem := rfl
@[simp] theorem dpCompare_halted : (dpCompare rn b s).halted = s.halted := rfl
@[simp] theorem dpCompare_diag : (dpCompare rn b s).diag = s.diag := rfl
@[simp] theorem dpCompare_draws : (dpCompare rn b s).draws = s.draws := rfl
@[simp] theorem dpCompare_params : (dpCompare rn b s).params = s.params := rfl

end

section
variable (rd q : RegNo) (r : AluResult) (s : State)

@[simp] theorem mulWrite_flags : (mulWrite rd r s).flags = r.flags := rfl
@[simp] theorem mulWrite_mem : (mulWrite rd r s).mem = s.mem := rfl
@[simp] theorem mulWrite_halted : (mulWrite rd r s).halted = s.halted := rfl
@[simp] theorem mulWrite_diag : (mulWrite rd r s).diag = s.diag := rfl
@[simp] theorem mulWrite_draws : (mulWrite rd r s).draws = s.draws := rfl
@[simp] theorem mulWrite_params : (mulWrite rd r s).params = s.params := rfl

theorem mulWrite_reg : (mulWrite rd r s).reg q = if q = rd then r.value else s.reg q := by
  simp only [mulWrite, State.reg_setReg]
  rfl

end

/-- The flags of a logical or multiply primitive: N and Z on request, C and V never (spec/41_alu.md R151, R162). -/
theorem aluLogical_flags (r : Word) (upd : Bool) (f : Flags) :
    (aluLogical r upd f).flags = if upd then ⟨r.msb, r == 0#32, f.c, f.v⟩ else f := by
  simp only [aluLogical, flagsNZ]

/-- The flags of CMP are those of SUB (R159). -/
@[simp] theorem aluCmp_eq (a b : Word) : aluCmp a b = flagsSub a b := rfl

/-! Loads and stores (spec/45_load_store.md R230) -/

section
variable (mode : AddrMode) (up : Bool) (rn rd q : RegNo) (off : Word) (s : State)

@[simp] theorem loadEffect_flags : (loadEffect mode up rn rd off s).flags = s.flags := by simp [loadEffect]
@[simp] theorem loadEffect_mem : (loadEffect mode up rn rd off s).mem = s.mem := by simp [loadEffect]
@[simp] theorem loadEffect_halted : (loadEffect mode up rn rd off s).halted = s.halted := by simp [loadEffect]
@[simp] theorem loadEffect_diag : (loadEffect mode up rn rd off s).diag = s.diag := by simp [loadEffect]
@[simp] theorem loadEffect_params : (loadEffect mode up rn rd off s).params = s.params := by simp [loadEffect]
@[simp] theorem loadEffect_draws :
    (loadEffect mode up rn rd off s).draws = (readWord s (accessAddr s mode up rn off)).2.draws := by simp [loadEffect]

theorem loadEffect_reg : (loadEffect mode up rn rd off s).reg q =
    if q = rd then loadedValue rd (readWord s (accessAddr s mode up rn off)).1
    else if updatesBase mode = true ∧ q = rn then appliedAddr s up rn off else s.reg q := by
  simp only [loadEffect, State.reg_setReg, State.reg_updateBase, readWord_reg]

@[simp] theorem storeEffect_flags : (storeEffect mode up rn rd off s).flags = s.flags := by simp [storeEffect]
@[simp] theorem storeEffect_halted : (storeEffect mode up rn rd off s).halted = s.halted := by simp [storeEffect]
@[simp] theorem storeEffect_diag : (storeEffect mode up rn rd off s).diag = s.diag := by simp [storeEffect]
@[simp] theorem storeEffect_draws : (storeEffect mode up rn rd off s).draws = s.draws := by simp [storeEffect]
@[simp] theorem storeEffect_params : (storeEffect mode up rn rd off s).params = s.params := by simp [storeEffect]
@[simp] theorem storeEffect_mem : (storeEffect mode up rn rd off s).mem =
    memInsert s.mem (accessAddr s mode up rn off).toNat (getBits (s.reg rd) 0 8) := by
  simp [storeEffect, memStore_one]

theorem storeEffect_reg : (storeEffect mode up rn rd off s).reg q =
    if updatesBase mode = true ∧ q = rn then appliedAddr s up rn off else s.reg q := by
  simp only [storeEffect, State.reg_updateBase, State.memWrite_reg]

end

/-! What an instruction can do: one lemma for all of them -/

/-- Every meaning is a refusal, or answers one of these: the state as it is, a DataProcessing or Multiply result, the
flags of a compare, a jump, a linked jump, a load, a store, a halt, an event. -/
inductive Effect (s : State) : State → Prop where
  | none : Effect s s
  | dp (alu : AluOp) (upd : Bool) (rn rd : RegNo) (b : Word) : Effect s (dpWrite alu upd rn rd b s)
  | cmp (rn : RegNo) (b : Word) : Effect s (dpCompare rn b s)
  | mul (rd : RegNo) (r : AluResult) : Effect s (mulWrite rd r s)
  | jump (imm24 : BitVec 24) : Effect s (jump imm24 s)
  | link (imm24 : BitVec 24) : Effect s (linkAndJump imm24 s)
  | load (mode : AddrMode) (up : Bool) (rn rd : RegNo) (off : Word) : Effect s (loadEffect mode up rn rd off s)
  | store (mode : AddrMode) (up : Bool) (rn rd : RegNo) (off : Word) : Effect s (storeEffect mode up rn rd off s)
  | halt : Effect s s.halt
  | emit (e : DiagEvent) : Effect s (s.emit e)

theorem Effect.of_whenPassed {cond : Cond} {s t : State} {e : State → State} (h : whenPassed cond s e = .next t)
    (he : Effect s (e s)) : Effect s t := by
  rcases whenPassed_cases cond s t e h with ⟨_, rfl⟩ | ⟨_, rfl⟩
  · exact he
  · exact .none

/-- An undefined opcode emits its warning or does nothing (spec/47_unknown_undefined.md R271). -/
theorem Effect.of_warnUndefined {cond : Cond} {s t : State} (h : warnUndefined cond s = .next t) : Effect s t := by
  simp only [warnUndefined, Host.Outcome.next.injEq] at h
  subst h
  split
  · exact .emit _
  · exact .none

/-- The inversion lemma of exec. -/
theorem exec_effect (i : Instr) (s t : State) (h : exec i s = .next t) : Effect s t := by
  cases i
  case mul => exact .of_whenPassed h (.mul ..)
  case mla => exact .of_whenPassed h (.mul ..)
  case dpReservedShiftKind => cases h
  case dpReservedBit7 => cases h
  case cmpImm => exact .of_whenPassed h (.cmp ..)
  case cmpShiftImm => exact .of_whenPassed h (.cmp ..)
  case cmpShiftReg => exact .of_whenPassed h (.cmp ..)
  case lsReservedP0W1 => cases h
  case lsReservedShiftedOffset => cases h
  case ldrImmOffset => exact .of_whenPassed h (.load ..)
  case ldrRegOffset => exact .of_whenPassed h (.load ..)
  case ldrImmPre => exact .of_whenPassed (unlessReserved_cases _ _ _ _ _ _ _ h) (.load ..)
  case ldrImmPost => exact .of_whenPassed (unlessReserved_cases _ _ _ _ _ _ _ h) (.load ..)
  case ldrRegPre => exact .of_whenPassed (unlessReserved_cases _ _ _ _ _ _ _ h) (.load ..)
  case ldrRegPost => exact .of_whenPassed (unlessReserved_cases _ _ _ _ _ _ _ h) (.load ..)
  case strImmOffset => exact .of_whenPassed h (.store ..)
  case strRegOffset => exact .of_whenPassed h (.store ..)
  case strImmPre => exact .of_whenPassed (unlessReserved_cases _ _ _ _ _ _ _ h) (.store ..)
  case strImmPost => exact .of_whenPassed (unlessReserved_cases _ _ _ _ _ _ _ h) (.store ..)
  case strRegPre => exact .of_whenPassed (unlessReserved_cases _ _ _ _ _ _ _ h) (.store ..)
  case strRegPost => exact .of_whenPassed (unlessReserved_cases _ _ _ _ _ _ _ h) (.store ..)
  case b => exact .of_whenPassed h (.jump ..)
  case bl => exact .of_whenPassed h (.link ..)
  case swiHalt => exact .of_whenPassed h .halt
  case swiDumpRegisters => exact .of_whenPassed (e := fun s => s.emit (.dumpRegisters s.regs)) h (.emit _)
  case swiPrintR0 => exact .of_whenPassed (e := fun s => s.emit (.printR0 (s.reg 0))) h (.emit _)
  case swiOther => exact .of_whenPassed h .none
  case unknownSel10 => cases h; exact .none
  case unknownSel11 => cases h; exact .none
  all_goals first
    | exact .of_warnUndefined h
    | exact .of_whenPassed h (.dp ..)

/-- The inversion lemma of a step: the halted core stays as it is, any other fetches and has one effect. -/
theorem step_effect (s t : State) (h : step s = .next t) :
    (s.halted = true ∧ t = s) ∨ (s.halted = false ∧ Effect (fetch s).2 t) := by
  unfold step at h
  split at h
  · next hh => cases h; exact .inl ⟨hh, rfl⟩
  · next hh => exact .inr ⟨by simpa using hh, exec_effect _ _ _ h⟩

end Sys2Proof.Machine
end

