-- ==== Sys2Proof/Laws/PerInstr.lean ====
section
/-! SUPPORT. A statement about every instruction as a term, one lemma per constructor: the word of a well-formed
instruction is classified (spec/30_encoding.md R86) into the family of its row. -/

namespace Sys2Proof.Laws.FamilyOfWord

/-- The classifier puts the word of a well-formed instruction into the instruction's family. -/
def Statement (i : Instr) : Prop := i.wellFormed = true → classify (encode i) = familyOf i

theorem mul (cond : Cond) (ign : BitVec 4) (upd : Bool) (rd rn rs rm : RegNo) : Statement (.mul cond ign upd rd rn rs rm) := fun _ => classify_mulWord cond ign false upd rd rn rs rm

theorem mla (cond : Cond) (ign : BitVec 4) (upd : Bool) (rd rn rs rm : RegNo) : Statement (.mla cond ign upd rd rn rs rm) := fun _ => classify_mulWord cond ign true upd rd rn rs rm

/-- Bits 27:26 and 7:4 of a reserved shift-kind word: bit 6 is 1, so bits 7:4 are no marker. -/
theorem dpReservedShiftKind (cond : Cond) (hi : BitVec 18) (lo : BitVec 6) :
    Statement (.dpReservedShiftKind cond hi lo) := by
  intro _
  have h6 : getBits (encode (.dpReservedShiftKind cond hi lo)) 6 1 = 1#1 := by
    simp (disch := decide) only [encode, getBits, BitVec.extractLsb'_append_eq_of_add_le,
      BitVec.extractLsb'_append_eq_of_le, Nat.reduceSub, BitVec.extractLsb'_eq_self]
  have hs : getBits (encode (.dpReservedShiftKind cond hi lo)) 26 2 = 0#2 := by
    simp (disch := decide) only [encode, getBits, BitVec.extractLsb'_append_eq_of_add_le,
      BitVec.extractLsb'_append_eq_of_le, Nat.reduceSub]
    rfl
  have hm : getBits (encode (.dpReservedShiftKind cond hi lo)) 4 4 ≠ 0b1001#4 := by
    rw [ne_eq, getBits_eq_marker]
    simp [getBit, h6]
  simp [classify, hs, hm, familyOf]

theorem dpReservedBit7 (cond : Cond) (hi : BitVec 17) (lo : BitVec 4) : Statement (.dpReservedBit7 cond hi lo) := by
  intro _
  have hm : getBits (encode (.dpReservedBit7 cond hi lo)) 4 4 = 0b1011#4 := by
    simp (disch := decide) only [encode, getBits, BitVec.extractLsb'_append_eq_of_add_le,
      BitVec.extractLsb'_append_eq_of_le, Nat.reduceSub, BitVec.extractLsb'_eq_self]
  have hs : getBits (encode (.dpReservedBit7 cond hi lo)) 26 2 = 0#2 := by
    simp (disch := decide) only [encode, getBits, BitVec.extractLsb'_append_eq_of_add_le,
      BitVec.extractLsb'_append_eq_of_le, Nat.reduceSub]
    rfl
  simp [classify, hs, hm, familyOf]

theorem andImm (cond : Cond) (upd : Bool) (rn rd : RegNo) (rotate : BitVec 4) (imm8 : BitVec 8) : Statement (.andImm cond upd rn rd rotate imm8) := by
  intro h
  refine classify_dpWord _ _ _ _ _ _ _ ?_
  rw [op2Imm_low _ _ _ _ (by decide)]
  simpa [Instr.wellFormed, immNotMultiply] using h

theorem andShiftImm (cond : Cond) (upd : Bool) (rn rd : RegNo) (shamt : BitVec 5) (kind : ShiftKind) (rm : RegNo) : Statement (.andShiftImm cond upd rn rd shamt kind rm) := fun _ =>
  classify_dpWord _ _ _ _ _ _ _ (op2ShiftImm_not_marker shamt kind rm)

theorem andShiftReg (cond : Cond) (upd : Bool) (rn rd rs : RegNo) (kind : ShiftKind) (rm : RegNo) : Statement (.andShiftReg cond upd rn rd rs kind rm) := fun _ =>
  classify_dpWord _ _ _ _ _ _ _ (op2ShiftReg_not_marker rs kind rm)

theorem eorImm (cond : Cond) (upd : Bool) (rn rd : RegNo) (rotate : BitVec 4) (imm8 : BitVec 8) : Statement (.eorImm cond upd rn rd rotate imm8) := by
  intro h
  refine classify_dpWord _ _ _ _ _ _ _ ?_
  rw [op2Imm_low _ _ _ _ (by decide)]
  simpa [Instr.wellFormed, immNotMultiply] using h

theorem eorShiftImm (cond : Cond) (upd : Bool) (rn rd : RegNo) (shamt : BitVec 5) (kind : ShiftKind) (rm : RegNo) : Statement (.eorShiftImm cond upd rn rd shamt kind rm) := fun _ =>
  classify_dpWord _ _ _ _ _ _ _ (op2ShiftImm_not_marker shamt kind rm)

theorem eorShiftReg (cond : Cond) (upd : Bool) (rn rd rs : RegNo) (kind : ShiftKind) (rm : RegNo) : Statement (.eorShiftReg cond upd rn rd rs kind rm) := fun _ =>
  classify_dpWord _ _ _ _ _ _ _ (op2ShiftReg_not_marker rs kind rm)

theorem subImm (cond : Cond) (upd : Bool) (rn rd : RegNo) (rotate : BitVec 4) (imm8 : BitVec 8) : Statement (.subImm cond upd rn rd rotate imm8) := by
  intro h
  refine classify_dpWord _ _ _ _ _ _ _ ?_
  rw [op2Imm_low _ _ _ _ (by decide)]
  simpa [Instr.wellFormed, immNotMultiply] using h

theorem subShiftImm (cond : Cond) (upd : Bool) (rn rd : RegNo) (shamt : BitVec 5) (kind : ShiftKind) (rm : RegNo) : Statement (.subShiftImm cond upd rn rd shamt kind rm) := fun _ =>
  classify_dpWord _ _ _ _ _ _ _ (op2ShiftImm_not_marker shamt kind rm)

theorem subShiftReg (cond : Cond) (upd : Bool) (rn rd rs : RegNo) (kind : ShiftKind) (rm : RegNo) : Statement (.subShiftReg cond upd rn rd rs kind rm) := fun _ =>
  classify_dpWord _ _ _ _ _ _ _ (op2ShiftReg_not_marker rs kind rm)

theorem addImm (cond : Cond) (upd : Bool) (rn rd : RegNo) (rotate : BitVec 4) (imm8 : BitVec 8) : Statement (.addImm cond upd rn rd rotate imm8) := by
  intro h
  refine classify_dpWord _ _ _ _ _ _ _ ?_
  rw [op2Imm_low _ _ _ _ (by decide)]
  simpa [Instr.wellFormed, immNotMultiply] using h

theorem addShiftImm (cond : Cond) (upd : Bool) (rn rd : RegNo) (shamt : BitVec 5) (kind : ShiftKind) (rm : RegNo) : Statement (.addShiftImm cond upd rn rd shamt kind rm) := fun _ =>
  classify_dpWord _ _ _ _ _ _ _ (op2ShiftImm_not_marker shamt kind rm)

theorem addShiftReg (cond : Cond) (upd : Bool) (rn rd rs : RegNo) (kind : ShiftKind) (rm : RegNo) : Statement (.addShiftReg cond upd rn rd rs kind rm) := fun _ =>
  classify_dpWord _ _ _ _ _ _ _ (op2ShiftReg_not_marker rs kind rm)

theorem cmpImm (cond : Cond) (upd : Bool) (rn rd : RegNo) (rotate : BitVec 4) (imm8 : BitVec 8) : Statement (.cmpImm cond upd rn rd rotate imm8) := by
  intro h
  refine classify_dpWord _ _ _ _ _ _ _ ?_
  rw [op2Imm_low _ _ _ _ (by decide)]
  simpa [Instr.wellFormed, immNotMultiply] using h

theorem cmpShiftImm (cond : Cond) (upd : Bool) (rn rd : RegNo) (shamt : BitVec 5) (kind : ShiftKind) (rm : RegNo) : Statement (.cmpShiftImm cond upd rn rd shamt kind rm) := fun _ =>
  classify_dpWord _ _ _ _ _ _ _ (op2ShiftImm_not_marker shamt kind rm)

theorem cmpShiftReg (cond : Cond) (upd : Bool) (rn rd rs : RegNo) (kind : ShiftKind) (rm : RegNo) : Statement (.cmpShiftReg cond upd rn rd rs kind rm) := fun _ =>
  classify_dpWord _ _ _ _ _ _ _ (op2ShiftReg_not_marker rs kind rm)

theorem orrImm (cond : Cond) (upd : Bool) (rn rd : RegNo) (rotate : BitVec 4) (imm8 : BitVec 8) : Statement (.orrImm cond upd rn rd rotate imm8) := by
  intro h
  refine classify_dpWord _ _ _ _ _ _ _ ?_
  rw [op2Imm_low _ _ _ _ (by decide)]
  simpa [Instr.wellFormed, immNotMultiply] using h

theorem orrShiftImm (cond : Cond) (upd : Bool) (rn rd : RegNo) (shamt : BitVec 5) (kind : ShiftKind) (rm : RegNo) : Statement (.orrShiftImm cond upd rn rd shamt kind rm) := fun _ =>
  classify_dpWord _ _ _ _ _ _ _ (op2ShiftImm_not_marker shamt kind rm)

theorem orrShiftReg (cond : Cond) (upd : Bool) (rn rd rs : RegNo) (kind : ShiftKind) (rm : RegNo) : Statement (.orrShiftReg cond upd rn rd rs kind rm) := fun _ =>
  classify_dpWord _ _ _ _ _ _ _ (op2ShiftReg_not_marker rs kind rm)

theorem movImm (cond : Cond) (upd : Bool) (rn rd : RegNo) (rotate : BitVec 4) (imm8 : BitVec 8) : Statement (.movImm cond upd rn rd rotate imm8) := by
  intro h
  refine classify_dpWord _ _ _ _ _ _ _ ?_
  rw [op2Imm_low _ _ _ _ (by decide)]
  simpa [Instr.wellFormed, immNotMultiply] using h

theorem movShiftImm (cond : Cond) (upd : Bool) (rn rd : RegNo) (shamt : BitVec 5) (kind : ShiftKind) (rm : RegNo) : Statement (.movShiftImm cond upd rn rd shamt kind rm) := fun _ =>
  classify_dpWord _ _ _ _ _ _ _ (op2ShiftImm_not_marker shamt kind rm)

theorem movShiftReg (cond : Cond) (upd : Bool) (rn rd rs : RegNo) (kind : ShiftKind) (rm : RegNo) : Statement (.movShiftReg cond upd rn rd rs kind rm) := fun _ =>
  classify_dpWord _ _ _ _ _ _ _ (op2ShiftReg_not_marker rs kind rm)

theorem bicImm (cond : Cond) (upd : Bool) (rn rd : RegNo) (rotate : BitVec 4) (imm8 : BitVec 8) : Statement (.bicImm cond upd rn rd rotate imm8) := by
  intro h
  refine classify_dpWord _ _ _ _ _ _ _ ?_
  rw [op2Imm_low _ _ _ _ (by decide)]
  simpa [Instr.wellFormed, immNotMultiply] using h

theorem bicShiftImm (cond : Cond) (upd : Bool) (rn rd : RegNo) (shamt : BitVec 5) (kind : ShiftKind) (rm : RegNo) : Statement (.bicShiftImm cond upd rn rd shamt kind rm) := fun _ =>
  classify_dpWord _ _ _ _ _ _ _ (op2ShiftImm_not_marker shamt kind rm)

theorem bicShiftReg (cond : Cond) (upd : Bool) (rn rd rs : RegNo) (kind : ShiftKind) (rm : RegNo) : Statement (.bicShiftReg cond upd rn rd rs kind rm) := fun _ =>
  classify_dpWord _ _ _ _ _ _ _ (op2ShiftReg_not_marker rs kind rm)

/-- The unexamined bits of a well-formed undefined-opcode word hold no marker. -/
theorem not_marker_of_undefNotOtherRow (imm : Bool) (rest : BitVec 21) (h : undefNotOtherRow imm rest = true) :
    rest.extractLsb' 4 4 ≠ 0b1001#4 := by
  simp only [undefNotOtherRow, Bool.and_eq_true, bne_iff_ne] at h
  exact h.1

theorem undef0011 (cond : Cond) (imm : Bool) (rest : BitVec 21) : Statement (.undef0011 cond imm rest) := fun h =>
  classify_undefWord _ _ _ _ (not_marker_of_undefNotOtherRow imm rest h)

theorem undef0101 (cond : Cond) (imm : Bool) (rest : BitVec 21) : Statement (.undef0101 cond imm rest) := fun h =>
  classify_undefWord _ _ _ _ (not_marker_of_undefNotOtherRow imm rest h)

theorem undef0110 (cond : Cond) (imm : Bool) (rest : BitVec 21) : Statement (.undef0110 cond imm rest) := fun h =>
  classify_undefWord _ _ _ _ (not_marker_of_undefNotOtherRow imm rest h)

theorem undef0111 (cond : Cond) (imm : Bool) (rest : BitVec 21) : Statement (.undef0111 cond imm rest) := fun h =>
  classify_undefWord _ _ _ _ (not_marker_of_undefNotOtherRow imm rest h)

theorem undef1000 (cond : Cond) (imm : Bool) (rest : BitVec 21) : Statement (.undef1000 cond imm rest) := fun h =>
  classify_undefWord _ _ _ _ (not_marker_of_undefNotOtherRow imm rest h)

theorem undef1001 (cond : Cond) (imm : Bool) (rest : BitVec 21) : Statement (.undef1001 cond imm rest) := fun h =>
  classify_undefWord _ _ _ _ (not_marker_of_undefNotOtherRow imm rest h)

theorem undef1011 (cond : Cond) (imm : Bool) (rest : BitVec 21) : Statement (.undef1011 cond imm rest) := fun h =>
  classify_undefWord _ _ _ _ (not_marker_of_undefNotOtherRow imm rest h)

theorem undef1111 (cond : Cond) (imm : Bool) (rest : BitVec 21) : Statement (.undef1111 cond imm rest) := fun h =>
  classify_undefWord _ _ _ _ (not_marker_of_undefNotOtherRow imm rest h)

theorem lsReservedP0W1 (cond : Cond) (imm : Bool) (hi : BitVec 2) (lo : BitVec 21) :
    Statement (.lsReservedP0W1 cond imm hi lo) := by
  intro _
  have hs : getBits (encode (.lsReservedP0W1 cond imm hi lo)) 26 2 = 0b01#2 := by
    simp (disch := decide) only [encode, getBits, BitVec.extractLsb'_append_eq_of_add_le,
      BitVec.extractLsb'_append_eq_of_le, Nat.reduceSub, BitVec.extractLsb'_eq_self]
  simp [classify, hs, familyOf]

theorem ldrImmOffset (cond : Cond) (up b22 : Bool) (rn rd : RegNo) (imm12 : BitVec 12) : Statement (.ldrImmOffset cond up b22 rn rd imm12) := fun _ =>
  classify_lsWord ..

theorem ldrImmPre (cond : Cond) (up b22 : Bool) (rn rd : RegNo) (imm12 : BitVec 12) : Statement (.ldrImmPre cond up b22 rn rd imm12) := fun _ =>
  classify_lsWord ..

theorem ldrImmPost (cond : Cond) (up b22 : Bool) (rn rd : RegNo) (imm12 : BitVec 12) : Statement (.ldrImmPost cond up b22 rn rd imm12) := fun _ =>
  classify_lsWord ..

theorem ldrRegOffset (cond : Cond) (up b22 : Bool) (rn rd : RegNo) (rm : RegNo) : Statement (.ldrRegOffset cond up b22 rn rd rm) := fun _ =>
  classify_lsWord ..

theorem ldrRegPre (cond : Cond) (up b22 : Bool) (rn rd : RegNo) (rm : RegNo) : Statement (.ldrRegPre cond up b22 rn rd rm) := fun _ =>
  classify_lsWord ..

theorem ldrRegPost (cond : Cond) (up b22 : Bool) (rn rd : RegNo) (rm : RegNo) : Statement (.ldrRegPost cond up b22 rn rd rm) := fun _ =>
  classify_lsWord ..

theorem strImmOffset (cond : Cond) (up b22 : Bool) (rn rd : RegNo) (imm12 : BitVec 12) : Statement (.strImmOffset cond up b22 rn rd imm12) := fun _ =>
  classify_lsWord ..

theorem strImmPre (cond : Cond) (up b22 : Bool) (rn rd : RegNo) (imm12 : BitVec 12) : Statement (.strImmPre cond up b22 rn rd imm12) := fun _ =>
  classify_lsWord ..

theorem strImmPost (cond : Cond) (up b22 : Bool) (rn rd : RegNo) (imm12 : BitVec 12) : Statement (.strImmPost cond up b22 rn rd imm12) := fun _ =>
  classify_lsWord ..

theorem strRegOffset (cond : Cond) (up b22 : Bool) (rn rd : RegNo) (rm : RegNo) : Statement (.strRegOffset cond up b22 rn rd rm) := fun _ =>
  classify_lsWord ..

theorem strRegPre (cond : Cond) (up b22 : Bool) (rn rd : RegNo) (rm : RegNo) : Statement (.strRegPre cond up b22 rn rd rm) := fun _ =>
  classify_lsWord ..

theorem strRegPost (cond : Cond) (up b22 : Bool) (rn rd : RegNo) (rm : RegNo) : Statement (.strRegPost cond up b22 rn rd rm) := fun _ =>
  classify_lsWord ..

theorem lsReservedShiftedOffset (cond : Cond) (rest : BitVec 25) : Statement (.lsReservedShiftedOffset cond rest) := by
  intro _
  have hs : getBits (encode (.lsReservedShiftedOffset cond rest)) 26 2 = 0b01#2 := by
    simp (disch := decide) only [encode, getBits, BitVec.extractLsb'_append_eq_of_add_le,
      BitVec.extractLsb'_append_eq_of_le, Nat.reduceSub]
    rfl
  simp [classify, hs, familyOf]

theorem b (cond : Cond) (imm24 : BitVec 24) : Statement (.b cond imm24) := fun _ => classify_branchWord ..

theorem bl (cond : Cond) (imm24 : BitVec 24) : Statement (.bl cond imm24) := fun _ => classify_branchWord ..

theorem unknownSel10 (top : BitVec 4) (rest : BitVec 25) : Statement (.unknownSel10 top rest) := by
  intro _
  have hs : getBits (encode (.unknownSel10 top rest)) 26 2 = 0b10#2 := by
    simp (disch := decide) only [encode, getBits, BitVec.extractLsb'_append_eq_of_add_le,
      BitVec.extractLsb'_append_eq_of_le, Nat.reduceSub]
    rfl
  have hb : getBits (encode (.unknownSel10 top rest)) 25 1 = 0#1 := by
    simp (disch := decide) only [encode, getBits, BitVec.extractLsb'_append_eq_of_add_le,
      BitVec.extractLsb'_append_eq_of_le, Nat.reduceSub]
    rfl
  simp [classify, hs, getBit, hb, familyOf]

theorem swiHalt (cond : Cond) : Statement (.swiHalt cond) := fun _ => classify_swiWord ..

theorem swiDumpRegisters (cond : Cond) : Statement (.swiDumpRegisters cond) := fun _ => classify_swiWord ..

theorem swiPrintR0 (cond : Cond) : Statement (.swiPrintR0 cond) := fun _ => classify_swiWord ..

theorem swiOther (cond : Cond) (service : BitVec 24) : Statement (.swiOther cond service) := fun _ => classify_swiWord ..

theorem unknownSel11 (top : BitVec 4) (sub : BitVec 2) (rest : BitVec 24) : Statement (.unknownSel11 top sub rest) := by
  intro h
  have hs : getBits (encode (.unknownSel11 top sub rest)) 26 2 = 0b11#2 := by
    simp (disch := decide) only [encode, getBits, BitVec.extractLsb'_append_eq_of_add_le,
      BitVec.extractLsb'_append_eq_of_le, Nat.reduceSub, BitVec.extractLsb'_eq_self]
  have hb : getBits (encode (.unknownSel11 top sub rest)) 24 2 = sub := by
    simp (disch := decide) only [encode, getBits, BitVec.extractLsb'_append_eq_of_add_le,
      BitVec.extractLsb'_append_eq_of_le, Nat.reduceSub, BitVec.extractLsb'_eq_self]
  have hn : sub ≠ 0b11#2 := by simpa [Instr.wellFormed] using h
  simp [classify, hs, hb, hn, familyOf]

end Sys2Proof.Laws.FamilyOfWord
end

