-- ==== Sys2Proof/Tests/Slice0.lean ====
section
/-! SUPPORT. The model's own tests: the well-formedness checks, one word per row of the opcode table, single steps, and
for every statement with hypotheses a concrete case that meets them. -/

namespace Sys2Proof.Tests.Slice0

open Sys2Proof Sys2Proof.Machine Sys2Proof.Safety

/-- The start of the vectors of spec/95_test_vectors.md section 0: reset, register 15 at 0x1000, eight bytes at 0x100. -/
def start (rs : List (RegNo × Word)) (f : Flags) : State :=
  rs.foldl (fun s p => s.setReg p.1 p.2) { State.reset with
    regs := State.reset.regs.set 15 0x1000#32, flags := f
    mem := [(0x100, 0x78), (0x101, 0x56), (0x102, 0x34), (0x103, 0x12), (0x104, 0xEF), (0x105, 0xBE), (0x106, 0xAD),
      (0x107, 0xDE)] }

/-- The state after one step that runs `w`. -/
def after (rs : List (RegNo × Word)) (f : Flags) (w : Word) : Option State :=
  match step (placeWord (start rs f) w) with
  | .next t => some t
  | .fault _ => none
  | .refused _ => none

/-- The refusal of one step that runs `w`. -/
def stop (rs : List (RegNo × Word)) (w : Word) : Option Refusal :=
  match step (placeWord (start rs ⟨false, false, false, false⟩) w) with
  | .next _ => none
  | .fault _ => none
  | .refused r => some r

/-- Reset with `w` as the next instruction. -/
def fresh (w : Word) : State := placeWord State.reset w

/-- The same in random fill mode with an ungated warning. -/
def freshOpen (w : Word) : State := { fresh w with params := ⟨.random, false⟩ }

/-- The state after a step, where it has one. -/
def afterStep (s : State) : State :=
  match step s with
  | .next t => t
  | .fault _ => s
  | .refused _ => s

/-! Well-formedness: every check refuses an ill-formed term, and the boundary beside it is accepted. -/

theorem test_illFormed_immediate_marker : ∀ imm8 ∈ [0x90#8, 0x94#8, 0x9F#8],
    (Instr.andImm .al false 0 0 0 imm8).wellFormed = false ∧ (Instr.eorImm .al false 0 0 0 imm8).wellFormed = false ∧
    (Instr.subImm .al false 0 0 0 imm8).wellFormed = false ∧ (Instr.addImm .al false 0 0 0 imm8).wellFormed = false ∧
    (Instr.cmpImm .al false 0 0 0 imm8).wellFormed = false ∧ (Instr.orrImm .al false 0 0 0 imm8).wellFormed = false ∧
    (Instr.movImm .al false 0 0 0 imm8).wellFormed = false ∧ (Instr.bicImm .al false 0 0 0 imm8).wellFormed = false := by
  decide

/-- The eight undefined-opcode instructions on the same fields. -/
def undefined (imm : Bool) (rest : BitVec 21) : List Instr :=
  [.undef0011 .al imm rest, .undef0101 .al imm rest, .undef0110 .al imm rest, .undef0111 .al imm rest,
    .undef1000 .al imm rest, .undef1001 .al imm rest, .undef1011 .al imm rest, .undef1111 .al imm rest]

theorem test_illFormed_undefined_marker :
    (undefined true 0x000090#21).any Instr.wellFormed = false ∧
      (undefined false 0x000090#21).any Instr.wellFormed = false := by decide

theorem test_illFormed_undefined_shift_kind :
    (undefined false 0x000040#21).any Instr.wellFormed = false ∧
      (undefined true 0x000040#21).all Instr.wellFormed = true := by decide

theorem test_illFormed_undefined_bit7 :
    (undefined false 0x0000B0#21).any Instr.wellFormed = false ∧
      (undefined true 0x0000B0#21).all Instr.wellFormed = true := by decide

theorem test_illFormed_reserved_offset :
    (Instr.lsReservedShiftedOffset .al 0x1000001#25).wellFormed = false ∧
    (Instr.lsReservedShiftedOffset .al 0x0200010#25).wellFormed = false := by decide

theorem test_illFormed_service :
    (Instr.swiOther .al 0).wellFormed = false ∧ (Instr.swiOther .al 1).wellFormed = false ∧
      (Instr.swiOther .al 2).wellFormed = false := by decide

theorem test_illFormed_unknown_swi : (Instr.unknownSel11 0 0b11 0).wellFormed = false := by decide

theorem test_notAdmitted :
    (Instr.dpReservedShiftKind .al 0 0).admitted = false ∧ (Instr.dpReservedBit7 .al 0 0).admitted = false ∧
    (Instr.lsReservedP0W1 .al false 0 0).admitted = false ∧ (Instr.lsReservedShiftedOffset .al 0x10).admitted = false ∧
    (Instr.ldrImmPre .al true false 1 1 4).admitted = false ∧ (Instr.ldrImmPost .al true false 1 1 4).admitted = false ∧
    (Instr.ldrRegPre .al true false 1 1 4).admitted = false ∧ (Instr.ldrRegPost .al true false 1 1 4).admitted = false ∧
    (Instr.strImmPre .al true false 1 1 4).admitted = false ∧ (Instr.strImmPost .al true false 1 1 4).admitted = false ∧
    (Instr.strRegPre .al true false 1 1 4).admitted = false ∧
      (Instr.strRegPost .al true false 1 1 4).admitted = false := by decide


/-! Decoding: one word per row, written out bit by bit from the spec's encoding of the row (spec/30_encoding.md R91 to
R101, spec/opcode_table.json); the encoder writes the same word. -/

theorem test_word_mul :
    decodeWord 0b1110_00_0000_0_0_0010_0000_0001_1001_0000#32 = .mul .al 0b0000#4 false 2 0 1 0 ∧
      encode (.mul .al 0b0000#4 false 2 0 1 0) =
        0b1110_00_0000_0_0_0010_0000_0001_1001_0000#32 := by decide

theorem test_word_mla :
    decodeWord 0b1110_00_0001_1_1_0011_0001_0000_1001_0010#32 = .mla .al 0b0001#4 true 3 1 0 2 ∧
      encode (.mla .al 0b0001#4 true 3 1 0 2) =
        0b1110_00_0001_1_1_0011_0001_0000_1001_0010#32 := by decide

theorem test_word_dpReservedShiftKind :
    decodeWord 0b0000_000_110100000000000000_1_000001#32 = .dpReservedShiftKind .eq 0b110100000000000000#18 0b000001#6 ∧
      encode (.dpReservedShiftKind .eq 0b110100000000000000#18 0b000001#6) =
        0b0000_000_110100000000000000_1_000001#32 := by decide

theorem test_word_dpReservedBit7 :
    decodeWord 0b1110_000_11010000000000000_1011_0001#32 = .dpReservedBit7 .al 0b11010000000000000#17 0b0001#4 ∧
      encode (.dpReservedBit7 .al 0b11010000000000000#17 0b0001#4) =
        0b1110_000_11010000000000000_1011_0001#32 := by decide

theorem test_word_andImm :
    decodeWord 0b1110_00_1_0000_1_0001_0011_1100_11111111#32 = .andImm .al true 1 3 0xC#4 0xFF#8 ∧
      encode (.andImm .al true 1 3 0xC#4 0xFF#8) =
        0b1110_00_1_0000_1_0001_0011_1100_11111111#32 := by decide

theorem test_word_andShiftImm :
    decodeWord 0b0001_00_0_0000_0_1110_1111_11111_01_0_0010#32 = .andShiftImm .ne false 14 15 31#5 .lsr 2 ∧
      encode (.andShiftImm .ne false 14 15 31#5 .lsr 2) =
        0b0001_00_0_0000_0_1110_1111_11111_01_0_0010#32 := by decide

theorem test_word_andShiftReg :
    decodeWord 0b1110_00_0_0000_1_0100_0101_0110_0_00_1_0111#32 = .andShiftReg .al true 4 5 6 .lsl 7 ∧
      encode (.andShiftReg .al true 4 5 6 .lsl 7) =
        0b1110_00_0_0000_1_0100_0101_0110_0_00_1_0111#32 := by decide

theorem test_word_eorImm :
    decodeWord 0b1110_00_1_0001_1_0001_0011_1100_11111111#32 = .eorImm .al true 1 3 0xC#4 0xFF#8 ∧
      encode (.eorImm .al true 1 3 0xC#4 0xFF#8) =
        0b1110_00_1_0001_1_0001_0011_1100_11111111#32 := by decide

theorem test_word_eorShiftImm :
    decodeWord 0b0001_00_0_0001_0_1110_1111_11111_01_0_0010#32 = .eorShiftImm .ne false 14 15 31#5 .lsr 2 ∧
      encode (.eorShiftImm .ne false 14 15 31#5 .lsr 2) =
        0b0001_00_0_0001_0_1110_1111_11111_01_0_0010#32 := by decide

theorem test_word_eorShiftReg :
    decodeWord 0b1110_00_0_0001_1_0100_0101_0110_0_00_1_0111#32 = .eorShiftReg .al true 4 5 6 .lsl 7 ∧
      encode (.eorShiftReg .al true 4 5 6 .lsl 7) =
        0b1110_00_0_0001_1_0100_0101_0110_0_00_1_0111#32 := by decide

theorem test_word_subImm :
    decodeWord 0b1110_00_1_0010_1_0001_0011_1100_11111111#32 = .subImm .al true 1 3 0xC#4 0xFF#8 ∧
      encode (.subImm .al true 1 3 0xC#4 0xFF#8) =
        0b1110_00_1_0010_1_0001_0011_1100_11111111#32 := by decide

theorem test_word_subShiftImm :
    decodeWord 0b0001_00_0_0010_0_1110_1111_11111_01_0_0010#32 = .subShiftImm .ne false 14 15 31#5 .lsr 2 ∧
      encode (.subShiftImm .ne false 14 15 31#5 .lsr 2) =
        0b0001_00_0_0010_0_1110_1111_11111_01_0_0010#32 := by decide

theorem test_word_subShiftReg :
    decodeWord 0b1110_00_0_0010_1_0100_0101_0110_0_00_1_0111#32 = .subShiftReg .al true 4 5 6 .lsl 7 ∧
      encode (.subShiftReg .al true 4 5 6 .lsl 7) =
        0b1110_00_0_0010_1_0100_0101_0110_0_00_1_0111#32 := by decide

theorem test_word_addImm :
    decodeWord 0b1110_00_1_0100_1_0001_0011_1100_11111111#32 = .addImm .al true 1 3 0xC#4 0xFF#8 ∧
      encode (.addImm .al true 1 3 0xC#4 0xFF#8) =
        0b1110_00_1_0100_1_0001_0011_1100_11111111#32 := by decide

theorem test_word_addShiftImm :
    decodeWord 0b0001_00_0_0100_0_1110_1111_11111_01_0_0010#32 = .addShiftImm .ne false 14 15 31#5 .lsr 2 ∧
      encode (.addShiftImm .ne false 14 15 31#5 .lsr 2) =
        0b0001_00_0_0100_0_1110_1111_11111_01_0_0010#32 := by decide

theorem test_word_addShiftReg :
    decodeWord 0b1110_00_0_0100_1_0100_0101_0110_0_00_1_0111#32 = .addShiftReg .al true 4 5 6 .lsl 7 ∧
      encode (.addShiftReg .al true 4 5 6 .lsl 7) =
        0b1110_00_0_0100_1_0100_0101_0110_0_00_1_0111#32 := by decide

theorem test_word_cmpImm :
    decodeWord 0b1110_00_1_1010_1_0001_0011_1100_11111111#32 = .cmpImm .al true 1 3 0xC#4 0xFF#8 ∧
      encode (.cmpImm .al true 1 3 0xC#4 0xFF#8) =
        0b1110_00_1_1010_1_0001_0011_1100_11111111#32 := by decide

theorem test_word_cmpShiftImm :
    decodeWord 0b0001_00_0_1010_0_1110_1111_11111_01_0_0010#32 = .cmpShiftImm .ne false 14 15 31#5 .lsr 2 ∧
      encode (.cmpShiftImm .ne false 14 15 31#5 .lsr 2) =
        0b0001_00_0_1010_0_1110_1111_11111_01_0_0010#32 := by decide

theorem test_word_cmpShiftReg :
    decodeWord 0b1110_00_0_1010_1_0100_0101_0110_0_00_1_0111#32 = .cmpShiftReg .al true 4 5 6 .lsl 7 ∧
      encode (.cmpShiftReg .al true 4 5 6 .lsl 7) =
        0b1110_00_0_1010_1_0100_0101_0110_0_00_1_0111#32 := by decide

theorem test_word_orrImm :
    decodeWord 0b1110_00_1_1100_1_0001_0011_1100_11111111#32 = .orrImm .al true 1 3 0xC#4 0xFF#8 ∧
      encode (.orrImm .al true 1 3 0xC#4 0xFF#8) =
        0b1110_00_1_1100_1_0001_0011_1100_11111111#32 := by decide

theorem test_word_orrShiftImm :
    decodeWord 0b0001_00_0_1100_0_1110_1111_11111_01_0_0010#32 = .orrShiftImm .ne false 14 15 31#5 .lsr 2 ∧
      encode (.orrShiftImm .ne false 14 15 31#5 .lsr 2) =
        0b0001_00_0_1100_0_1110_1111_11111_01_0_0010#32 := by decide

theorem test_word_orrShiftReg :
    decodeWord 0b1110_00_0_1100_1_0100_0101_0110_0_00_1_0111#32 = .orrShiftReg .al true 4 5 6 .lsl 7 ∧
      encode (.orrShiftReg .al true 4 5 6 .lsl 7) =
        0b1110_00_0_1100_1_0100_0101_0110_0_00_1_0111#32 := by decide

theorem test_word_movImm :
    decodeWord 0b1110_00_1_1101_1_0001_0011_1100_11111111#32 = .movImm .al true 1 3 0xC#4 0xFF#8 ∧
      encode (.movImm .al true 1 3 0xC#4 0xFF#8) =
        0b1110_00_1_1101_1_0001_0011_1100_11111111#32 := by decide

theorem test_word_movShiftImm :
    decodeWord 0b0001_00_0_1101_0_1110_1111_11111_01_0_0010#32 = .movShiftImm .ne false 14 15 31#5 .lsr 2 ∧
      encode (.movShiftImm .ne false 14 15 31#5 .lsr 2) =
        0b0001_00_0_1101_0_1110_1111_11111_01_0_0010#32 := by decide

theorem test_word_movShiftReg :
    decodeWord 0b1110_00_0_1101_1_0100_0101_0110_0_00_1_0111#32 = .movShiftReg .al true 4 5 6 .lsl 7 ∧
      encode (.movShiftReg .al true 4 5 6 .lsl 7) =
        0b1110_00_0_1101_1_0100_0101_0110_0_00_1_0111#32 := by decide

theorem test_word_bicImm :
    decodeWord 0b1110_00_1_1110_1_0001_0011_1100_11111111#32 = .bicImm .al true 1 3 0xC#4 0xFF#8 ∧
      encode (.bicImm .al true 1 3 0xC#4 0xFF#8) =
        0b1110_00_1_1110_1_0001_0011_1100_11111111#32 := by decide

theorem test_word_bicShiftImm :
    decodeWord 0b0001_00_0_1110_0_1110_1111_11111_01_0_0010#32 = .bicShiftImm .ne false 14 15 31#5 .lsr 2 ∧
      encode (.bicShiftImm .ne false 14 15 31#5 .lsr 2) =
        0b0001_00_0_1110_0_1110_1111_11111_01_0_0010#32 := by decide

theorem test_word_bicShiftReg :
    decodeWord 0b1110_00_0_1110_1_0100_0101_0110_0_00_1_0111#32 = .bicShiftReg .al true 4 5 6 .lsl 7 ∧
      encode (.bicShiftReg .al true 4 5 6 .lsl 7) =
        0b1110_00_0_1110_1_0100_0101_0110_0_00_1_0111#32 := by decide

theorem test_word_undef0011 :
    decodeWord 0b1110_00_1_0011_011111111111101101111#32 = .undef0011 .al true 0x0FFF6F#21 ∧
      encode (.undef0011 .al true 0x0FFF6F#21) =
        0b1110_00_1_0011_011111111111101101111#32 := by decide

theorem test_word_undef0101 :
    decodeWord 0b1110_00_1_0101_011111111111101101111#32 = .undef0101 .al true 0x0FFF6F#21 ∧
      encode (.undef0101 .al true 0x0FFF6F#21) =
        0b1110_00_1_0101_011111111111101101111#32 := by decide

theorem test_word_undef0110 :
    decodeWord 0b1110_00_1_0110_011111111111101101111#32 = .undef0110 .al true 0x0FFF6F#21 ∧
      encode (.undef0110 .al true 0x0FFF6F#21) =
        0b1110_00_1_0110_011111111111101101111#32 := by decide

theorem test_word_undef0111 :
    decodeWord 0b1110_00_1_0111_011111111111101101111#32 = .undef0111 .al true 0x0FFF6F#21 ∧
      encode (.undef0111 .al true 0x0FFF6F#21) =
        0b1110_00_1_0111_011111111111101101111#32 := by decide

theorem test_word_undef1000 :
    decodeWord 0b1110_00_1_1000_011111111111101101111#32 = .undef1000 .al true 0x0FFF6F#21 ∧
      encode (.undef1000 .al true 0x0FFF6F#21) =
        0b1110_00_1_1000_011111111111101101111#32 := by decide

theorem test_word_undef1001 :
    decodeWord 0b1110_00_1_1001_011111111111101101111#32 = .undef1001 .al true 0x0FFF6F#21 ∧
      encode (.undef1001 .al true 0x0FFF6F#21) =
        0b1110_00_1_1001_011111111111101101111#32 := by decide

theorem test_word_undef1011 :
    decodeWord 0b1110_00_1_1011_011111111111101101111#32 = .undef1011 .al true 0x0FFF6F#21 ∧
      encode (.undef1011 .al true 0x0FFF6F#21) =
        0b1110_00_1_1011_011111111111101101111#32 := by decide

theorem test_word_undef1111 :
    decodeWord 0b1110_00_1_1111_011111111111101101111#32 = .undef1111 .al true 0x0FFF6F#21 ∧
      encode (.undef1111 .al true 0x0FFF6F#21) =
        0b1110_00_1_1111_011111111111101101111#32 := by decide

theorem test_word_lsReservedP0W1 :
    decodeWord 0b1110_01_0_0_10_1_100010010000000000100#32 = .lsReservedP0W1 .al false 0b10#2 0b100010010000000000100#21 ∧
      encode (.lsReservedP0W1 .al false 0b10#2 0b100010010000000000100#21) =
        0b1110_01_0_0_10_1_100010010000000000100#32 := by decide

theorem test_word_ldrImmOffset :
    decodeWord 0b1110_01_0_1_1_0_0_1_0001_0010_100000000001#32 = .ldrImmOffset .al true false 1 2 0x801#12 ∧
      encode (.ldrImmOffset .al true false 1 2 0x801#12) =
        0b1110_01_0_1_1_0_0_1_0001_0010_100000000001#32 := by decide

theorem test_word_ldrImmPre :
    decodeWord 0b1110_01_0_1_1_1_1_1_0001_0010_100000000001#32 = .ldrImmPre .al true true 1 2 0x801#12 ∧
      encode (.ldrImmPre .al true true 1 2 0x801#12) =
        0b1110_01_0_1_1_1_1_1_0001_0010_100000000001#32 := by decide

theorem test_word_ldrImmPost :
    decodeWord 0b1110_01_0_0_0_0_0_1_0001_0010_100000000001#32 = .ldrImmPost .al false false 1 2 0x801#12 ∧
      encode (.ldrImmPost .al false false 1 2 0x801#12) =
        0b1110_01_0_0_0_0_0_1_0001_0010_100000000001#32 := by decide

theorem test_word_ldrRegOffset :
    decodeWord 0b1110_01_1_1_1_0_0_1_0001_0010_0000_0000_1111#32 = .ldrRegOffset .al true false 1 2 15 ∧
      encode (.ldrRegOffset .al true false 1 2 15) =
        0b1110_01_1_1_1_0_0_1_0001_0010_0000_0000_1111#32 := by decide

theorem test_word_ldrRegPre :
    decodeWord 0b1110_01_1_1_1_1_1_1_0001_0010_0000_0000_1111#32 = .ldrRegPre .al true true 1 2 15 ∧
      encode (.ldrRegPre .al true true 1 2 15) =
        0b1110_01_1_1_1_1_1_1_0001_0010_0000_0000_1111#32 := by decide

theorem test_word_ldrRegPost :
    decodeWord 0b1110_01_1_0_0_0_0_1_0001_0010_0000_0000_1111#32 = .ldrRegPost .al false false 1 2 15 ∧
      encode (.ldrRegPost .al false false 1 2 15) =
        0b1110_01_1_0_0_0_0_1_0001_0010_0000_0000_1111#32 := by decide

theorem test_word_strImmOffset :
    decodeWord 0b1110_01_0_1_1_0_0_0_0001_0010_100000000001#32 = .strImmOffset .al true false 1 2 0x801#12 ∧
      encode (.strImmOffset .al true false 1 2 0x801#12) =
        0b1110_01_0_1_1_0_0_0_0001_0010_100000000001#32 := by decide

theorem test_word_strImmPre :
    decodeWord 0b1110_01_0_1_1_1_1_0_0001_0010_100000000001#32 = .strImmPre .al true true 1 2 0x801#12 ∧
      encode (.strImmPre .al true true 1 2 0x801#12) =
        0b1110_01_0_1_1_1_1_0_0001_0010_100000000001#32 := by decide

theorem test_word_strImmPost :
    decodeWord 0b1110_01_0_0_0_0_0_0_0001_0010_100000000001#32 = .strImmPost .al false false 1 2 0x801#12 ∧
      encode (.strImmPost .al false false 1 2 0x801#12) =
        0b1110_01_0_0_0_0_0_0_0001_0010_100000000001#32 := by decide

theorem test_word_strRegOffset :
    decodeWord 0b1110_01_1_1_1_0_0_0_0001_0010_0000_0000_1111#32 = .strRegOffset .al true false 1 2 15 ∧
      encode (.strRegOffset .al true false 1 2 15) =
        0b1110_01_1_1_1_0_0_0_0001_0010_0000_0000_1111#32 := by decide

theorem test_word_strRegPre :
    decodeWord 0b1110_01_1_1_1_1_1_0_0001_0010_0000_0000_1111#32 = .strRegPre .al true true 1 2 15 ∧
      encode (.strRegPre .al true true 1 2 15) =
        0b1110_01_1_1_1_1_1_0_0001_0010_0000_0000_1111#32 := by decide

theorem test_word_strRegPost :
    decodeWord 0b1110_01_1_0_0_0_0_0_0001_0010_0000_0000_1111#32 = .strRegPost .al false false 1 2 15 ∧
      encode (.strRegPost .al false false 1 2 15) =
        0b1110_01_1_0_0_0_0_0_0001_0010_0000_0000_1111#32 := by decide

theorem test_word_lsReservedShiftedOffset :
    decodeWord 0b1110_011_1100100010010000100000011#32 = .lsReservedShiftedOffset .al 0b1100100010010000100000011#25 ∧
      encode (.lsReservedShiftedOffset .al 0b1100100010010000100000011#25) =
        0b1110_011_1100100010010000100000011#32 := by decide

theorem test_word_b :
    decodeWord 0b1101_101_0_111111111111111111111111#32 = .b .le 0xFFFFFF#24 ∧
      encode (.b .le 0xFFFFFF#24) =
        0b1101_101_0_111111111111111111111111#32 := by decide

theorem test_word_bl :
    decodeWord 0b1110_101_1_000000000000000000000001#32 = .bl .al 0x000001#24 ∧
      encode (.bl .al 0x000001#24) =
        0b1110_101_1_000000000000000000000001#32 := by decide

theorem test_word_unknownSel10 :
    decodeWord 0b1110_100_0101111011000000000000000#32 = .unknownSel10 0b1110#4 0x0BD8000#25 ∧
      encode (.unknownSel10 0b1110#4 0x0BD8000#25) =
        0b1110_100_0101111011000000000000000#32 := by decide

theorem test_word_swiHalt :
    decodeWord 0b1110_1111_000000000000000000000000#32 = .swiHalt .al ∧
      encode (.swiHalt .al) =
        0b1110_1111_000000000000000000000000#32 := by decide

theorem test_word_swiDumpRegisters :
    decodeWord 0b1110_1111_000000000000000000000001#32 = .swiDumpRegisters .al ∧
      encode (.swiDumpRegisters .al) =
        0b1110_1111_000000000000000000000001#32 := by decide

theorem test_word_swiPrintR0 :
    decodeWord 0b1110_1111_000000000000000000000010#32 = .swiPrintR0 .al ∧
      encode (.swiPrintR0 .al) =
        0b1110_1111_000000000000000000000010#32 := by decide

theorem test_word_swiOther :
    decodeWord 0b1111_1111_111111111111111111111111#32 = .swiOther .nv 0xFFFFFF#24 ∧
      encode (.swiOther .nv 0xFFFFFF#24) =
        0b1111_1111_111111111111111111111111#32 := by decide

theorem test_word_unknownSel11 :
    decodeWord 0b1110_11_10_000000000000000000000000#32 = .unknownSel11 0b1110#4 0b10#2 0x000000#24 ∧
      encode (.unknownSel11 0b1110#4 0b10#2 0x000000#24) =
        0b1110_11_10_000000000000000000000000#32 := by decide

/-! Steps: the expected results are the vectors of spec/95_test_vectors.md where the comment names one, else worked out
by hand from the rules it names. -/

/-- V-MU-2. -/
theorem test_step_mul :
    (after [(0, 0x10000#32), (1, 0x10000#32), (2, 0x5#32)] ⟨false, false, true, true⟩ 0xE0120190#32).map
        (fun t => (t.reg 2, t.flags)) =
      some (0#32, ⟨false, true, true, true⟩) := by decide

/-- V-MU-10: imm8 = 0x94 makes it a Multiply word. -/
theorem test_step_mla :
    (after [(0, 0x3#32), (4, 0x5#32)] ⟨false, false, false, false⟩ 0xE3A00094#32).map
        (fun t => (t.reg 0, t.flags)) =
      some (0x12#32, ⟨false, false, false, false⟩) := by decide

/-- R176, R171. -/
theorem test_step_andImm :
    (after [(1, 0x12345678#32)] ⟨false, false, true, false⟩ 0xE20100FF#32).map
        (fun t => (t.reg 0, t.flags)) =
      some (0x78#32, ⟨false, false, true, false⟩) := by decide

/-- V-DP-14. -/
theorem test_step_andShiftImm :
    (after [(1, 0xF0F0F0F0#32), (2, 0xF0F0F0F#32)] ⟨false, false, true, true⟩ 0xE0110002#32).map
        (fun t => (t.reg 0, t.flags)) =
      some (0#32, ⟨false, true, true, true⟩) := by decide

/-- R176, R173. -/
theorem test_step_andShiftReg :
    (after [(1, 0xF0#32), (2, 0x4#32), (3, 0xFF#32)] ⟨false, false, false, false⟩ 0xE0010213#32).map
        (fun t => t.reg 0) =
      some 0xF0#32 := by decide

/-- R177, R162: C kept. -/
theorem test_step_eorImm :
    (after [(1, 0x1#32)] ⟨true, false, true, false⟩ 0xE2310001#32).map
        (fun t => (t.reg 0, t.flags)) =
      some (0#32, ⟨false, true, true, false⟩) := by decide

/-- V-DP-15. -/
theorem test_step_eorShiftImm :
    (after [(1, 0x1234#32), (0, 0x9#32)] ⟨true, false, false, false⟩ 0xE0310001#32).map
        (fun t => (t.reg 0, t.flags)) =
      some (0#32, ⟨false, true, false, false⟩) := by decide

/-- R177, R173: amount 0x24 gives 0. -/
theorem test_step_eorShiftReg :
    (after [(1, 0xF#32), (2, 0x24#32), (3, 0xF0#32)] ⟨false, false, false, false⟩ 0xE0210233#32).map
        (fun t => t.reg 0) =
      some 0xF#32 := by decide

/-- V-DP-5. -/
theorem test_step_subImm :
    (after [(1, 0x0#32)] ⟨false, false, false, false⟩ 0xE2510001#32).map
        (fun t => (t.reg 0, t.flags)) =
      some (0xFFFFFFFF#32, ⟨true, false, false, false⟩) := by decide

/-- V-DP-7. -/
theorem test_step_subShiftImm :
    (after [(1, 0x80000000#32), (2, 0x1#32)] ⟨false, false, false, false⟩ 0xE0510002#32).map
        (fun t => (t.reg 0, t.flags)) =
      some (0x7FFFFFFF#32, ⟨false, false, true, true⟩) := by decide

/-- R178, R173. -/
theorem test_step_subShiftReg :
    (after [(1, 0x10#32), (2, 0x4#32), (3, 0x1#32)] ⟨false, false, false, false⟩ 0xE0510213#32).map
        (fun t => (t.reg 0, t.flags)) =
      some (0#32, ⟨false, true, true, false⟩) := by decide

/-- V-DP-2, source example S5. -/
theorem test_step_addImm :
    (after [(1, 0xFFFFFFFF#32), (0, 0x9#32)] ⟨false, false, false, false⟩ 0xE2910001#32).map
        (fun t => (t.reg 0, t.flags)) =
      some (0#32, ⟨false, true, true, false⟩) := by decide

/-- V-PC-2. -/
theorem test_step_addImm_pc :
    (after [] ⟨false, false, false, false⟩ 0xE28F0008#32).map
        (fun t => (t.reg 0, t.pc)) =
      some (0x100C#32, 0x1004#32) := by decide

/-- V-DP-4. -/
theorem test_step_addShiftImm :
    (after [(1, 0x80000000#32)] ⟨false, false, false, false⟩ 0xE0910001#32).map
        (fun t => (t.reg 0, t.flags)) =
      some (0#32, ⟨false, true, true, true⟩) := by decide

/-- R179, R173. -/
theorem test_step_addShiftReg :
    (after [(1, 0xFFFFFFF0#32), (2, 0x4#32), (3, 0x1#32)] ⟨false, false, false, false⟩ 0xE0910213#32).map
        (fun t => (t.reg 0, t.flags)) =
      some (0#32, ⟨false, true, true, false⟩) := by decide

/-- R180, its example. -/
theorem test_step_cmpImm :
    (after [(1, 0x80000000#32)] ⟨false, false, false, false⟩ 0xE3510000#32).map
        (fun t => (t.reg 0, t.flags)) =
      some (0#32, ⟨true, false, true, false⟩) := by decide

/-- V-DP-11: S = 0. -/
theorem test_step_cmpShiftImm :
    (after [(1, 0x7#32), (2, 0x7#32)] ⟨false, false, false, false⟩ 0xE1410002#32).map
        (fun t => t.flags) =
      some ⟨false, true, true, false⟩ := by decide

/-- R180, R173. -/
theorem test_step_cmpShiftReg :
    (after [(0, 0x55#32), (1, 0x10#32), (2, 0x4#32), (3, 0x1#32)] ⟨true, false, false, true⟩ 0xE1510213#32).map
        (fun t => (t.reg 0, t.flags)) =
      some (0x55#32, ⟨false, true, true, false⟩) := by decide

/-- V-DP-17. -/
theorem test_step_orrImm :
    (after [(0, 0x80000000#32)] ⟨false, false, false, false⟩ 0xE3800001#32).map
        (fun t => t.reg 0) =
      some 0x80000001#32 := by decide

/-- V-DP-18. -/
theorem test_step_orrShiftImm :
    (after [(1, 0x80000000#32), (2, 0x1#32)] ⟨false, true, true, false⟩ 0xE1910002#32).map
        (fun t => (t.reg 0, t.flags)) =
      some (0x80000001#32, ⟨true, false, true, false⟩) := by decide

/-- R181, R173. -/
theorem test_step_orrShiftReg :
    (after [(1, 0xF#32), (2, 0x4#32), (3, 0xF#32)] ⟨false, false, false, false⟩ 0xE1810213#32).map
        (fun t => t.reg 0) =
      some 0xFF#32 := by decide

/-- V-DP-23. -/
theorem test_step_movImm :
    (after [(0, 0x7#32)] ⟨true, false, false, false⟩ 0xE3B00000#32).map
        (fun t => (t.reg 0, t.flags)) =
      some (0#32, ⟨false, true, false, false⟩) := by decide

/-- V-CC-1. -/
theorem test_step_movImm_failed :
    (after [] ⟨false, false, false, false⟩ 0x03A00005#32).map
        (fun t => (t.reg 0, t.pc)) =
      some (0#32, 0x1004#32) := by decide

/-- V-SH-3: LSR #0 passes through. -/
theorem test_step_movShiftImm :
    (after [(1, 0x80000001#32)] ⟨false, false, false, false⟩ 0xE1A00021#32).map
        (fun t => t.reg 0) =
      some 0x80000001#32 := by decide

/-- V-PC-5. -/
theorem test_step_movShiftImm_pc :
    (after [(14, 0x2000#32)] ⟨false, false, false, false⟩ 0xE1A0F00E#32).map
        (fun t => t.pc) =
      some 0x2000#32 := by decide

/-- V-SH-17. -/
theorem test_step_movShiftReg_32 :
    (after [(1, 0xFF0000FF#32), (2, 0x20#32)] ⟨false, false, false, false⟩ 0xE1A00231#32).map
        (fun t => t.reg 0) =
      some 0#32 := by decide

/-- V-SH-12: only the low byte counts. -/
theorem test_step_movShiftReg_low :
    (after [(1, 0xFF#32), (2, 0x100#32)] ⟨false, false, false, false⟩ 0xE1A00211#32).map
        (fun t => t.reg 0) =
      some 0xFF#32 := by decide

/-- V-DP-19. -/
theorem test_step_bicImm :
    (after [(0, 0x12345678#32)] ⟨false, false, false, false⟩ 0xE3C000FF#32).map
        (fun t => t.reg 0) =
      some 0x12345600#32 := by decide

/-- V-DP-20. -/
theorem test_step_bicShiftImm :
    (after [(1, 0xFFFFFFFF#32), (2, 0x0#32)] ⟨false, false, false, false⟩ 0xE1D10002#32).map
        (fun t => (t.reg 0, t.flags)) =
      some (0xFFFFFFFF#32, ⟨true, false, false, false⟩) := by decide

/-- R183, R173. -/
theorem test_step_bicShiftReg :
    (after [(1, 0xFF#32), (2, 0x4#32), (3, 0xF#32)] ⟨false, false, false, false⟩ 0xE1C10213#32).map
        (fun t => t.reg 0) =
      some 0xF#32 := by decide

/-- V-UD-1. -/
theorem test_step_undef0011 :
    (after [(0, 0x5#32)] ⟨false, false, false, false⟩ 0xE2600000#32).map
        (fun t => (t.reg 0, t.diag.map (·.event))) =
      some (5#32, [.undefinedOpcodeWarning]) := by decide

/-- V-UD-6. -/
theorem test_step_undef0011_failed :
    (after [(0, 0x5#32)] ⟨false, false, false, false⟩ 0x02600000#32).map
        (fun t => (t.reg 0, t.diag.map (·.event))) =
      some (5#32, []) := by decide

/-- V-UD-7. -/
theorem test_step_undef0101 :
    (after [(0, 0x1#32), (1, 0x1#32)] ⟨false, false, true, false⟩ 0xE0A00001#32).map
        (fun t => (t.reg 0, t.diag.map (·.event))) =
      some (1#32, [.undefinedOpcodeWarning]) := by decide

/-- V-UD-5. -/
theorem test_step_undef1000 :
    (after [(0, 0x1#32), (1, 0x1#32)] ⟨false, false, false, false⟩ 0xE1100001#32).map
        (fun t => (t.flags, t.diag.map (·.event))) =
      some (⟨false, false, false, false⟩, [.undefinedOpcodeWarning]) := by decide

/-- V-UD-4: no jump. -/
theorem test_step_undef1001 :
    (after [(14, 0x2000#32)] ⟨false, false, false, false⟩ 0xE12FFF1E#32).map
        (fun t => (t.pc, t.diag.map (·.event))) =
      some (0x1004#32, [.undefinedOpcodeWarning]) := by decide

/-- V-UD-2; the snapshot of R6 beside the warning. -/
theorem test_step_undef1111 :
    (after [(0, 0x5#32)] ⟨false, false, false, false⟩ 0xE1E00000#32).map
        (fun t => decide (t.reg 0 = 5#32 ∧ t.diag = [⟨.undefinedOpcodeWarning, t.regs⟩])) = some true := by decide

/-- V-LS-3: misaligned. -/
theorem test_step_ldrImmOffset :
    (after [(1, 0x100#32)] ⟨false, false, false, false⟩ 0xE5912001#32).map
        (fun t => (t.reg 2, t.reg 1)) =
      some (0xEF123456#32, 0x100#32) := by decide

/-- V-LS-18: low bits cleared. -/
theorem test_step_ldrImmOffset_pc :
    (after [(1, 0x100#32)] ⟨false, false, false, false⟩ 0xE591F004#32).map
        (fun t => t.pc) =
      some 0xDEADBEEC#32 := by decide

/-- V-LS-6. -/
theorem test_step_ldrImmPre :
    (after [(1, 0x104#32)] ⟨false, false, false, false⟩ 0xE5312004#32).map
        (fun t => (t.reg 2, t.reg 1)) =
      some (0x12345678#32, 0x100#32) := by decide

/-- V-LS-8. -/
theorem test_step_ldrImmPost :
    (after [(1, 0x100#32)] ⟨false, false, false, false⟩ 0xE4112004#32).map
        (fun t => (t.reg 2, t.reg 1)) =
      some (0x12345678#32, 0xFC#32) := by decide

/-- V-LS-15: offset register 15 is A + 12. -/
theorem test_step_ldrRegOffset :
    (after [(1, 0xFFFFF0F4#32)] ⟨false, false, false, false⟩ 0xE791200F#32).map
        (fun t => t.reg 2) =
      some 0x12345678#32 := by decide

/-- V-LS-11. -/
theorem test_step_ldrRegPre :
    (after [(1, 0x100#32), (3, 0x4#32)] ⟨false, false, false, false⟩ 0xE7B12003#32).map
        (fun t => (t.reg 2, t.reg 1)) =
      some (0xDEADBEEF#32, 0x104#32) := by decide

/-- V-LS-14: the offset is the old r2. -/
theorem test_step_ldrRegPost :
    (after [(1, 0x100#32), (2, 0x8#32)] ⟨false, false, false, false⟩ 0xE6912002#32).map
        (fun t => (t.reg 2, t.reg 1)) =
      some (0x12345678#32, 0x108#32) := by decide

/-- V-LS-30: one byte, 101 to 103 stay. -/
theorem test_step_strImmOffset :
    (after [(1, 0x100#32), (2, 0xAABBCCDD#32)] ⟨false, false, false, false⟩ 0xE5812000#32).map
        (fun t => (readWord t 0x100#32).1) =
      some 0x123456DD#32 := by decide

/-- V-LS-38. -/
theorem test_step_strImmOffset_wrap :
    (after [(1, 0x0#32), (2, 0x5A#32)] ⟨false, false, false, false⟩ 0xE5012001#32).map
        (fun t => memLookup t.mem 0xFFFFFFFF) =
      some (some 0x5A#8) := by decide

/-- V-LS-32. -/
theorem test_step_strImmPre :
    (after [(1, 0x100#32), (2, 0xAABBCCDD#32)] ⟨false, false, false, false⟩ 0xE5A12001#32).map
        (fun t => (memLookup t.mem 0x101, t.reg 1)) =
      some (some 0xDD#8, 0x101#32) := by decide

/-- V-LS-34. -/
theorem test_step_strImmPost :
    (after [(1, 0x100#32), (2, 0xAABBCCDD#32)] ⟨false, false, false, false⟩ 0xE4012001#32).map
        (fun t => (memLookup t.mem 0x100, t.reg 1)) =
      some (some 0xDD#8, 0xFF#32) := by decide

/-- V-LS-36. -/
theorem test_step_strRegOffset :
    (after [(1, 0x200#32), (2, 0x1FF#32), (3, 0x10#32)] ⟨false, false, false, false⟩ 0xE7812003#32).map
        (fun t => (memLookup t.mem 0x210, t.reg 1)) =
      some (some 0xFF#8, 0x200#32) := by decide

/-- R235, R239. -/
theorem test_step_strRegPre :
    (after [(1, 0x200#32), (2, 0x1FF#32), (3, 0x10#32)] ⟨false, false, false, false⟩ 0xE7A12003#32).map
        (fun t => (memLookup t.mem 0x210, t.reg 1)) =
      some (some 0xFF#8, 0x210#32) := by decide

/-- R236, R239. -/
theorem test_step_strRegPost :
    (after [(1, 0x200#32), (2, 0x1FF#32), (3, 0x10#32)] ⟨false, false, false, false⟩ 0xE6812003#32).map
        (fun t => (memLookup t.mem 0x200, t.reg 1)) =
      some (some 0xFF#8, 0x210#32) := by decide

/-- V-BR-8: wraps below 0. -/
theorem test_step_b :
    (after [] ⟨false, false, false, false⟩ 0xEA800000#32).map
        (fun t => t.pc) =
      some 0xFE001008#32 := by decide

/-- V-BR-6. -/
theorem test_step_bl :
    (after [(14, 0x77#32)] ⟨false, true, false, false⟩ 0x0B000000#32).map
        (fun t => (t.pc, t.reg 14)) =
      some (0x1008#32, 0x1004#32) := by decide

/-- V-BR-7. -/
theorem test_step_bl_failed :
    (after [(14, 0x77#32)] ⟨false, false, false, false⟩ 0x0B000000#32).map
        (fun t => (t.pc, t.reg 14)) =
      some (0x1004#32, 0x77#32) := by decide

/-- V-UN-1. -/
theorem test_step_unknownSel10 :
    (after [(13, 0x100#32)] ⟨false, false, false, false⟩ 0xE8BD8000#32).map
        (fun t => (t.pc, t.reg 13)) =
      some (0x1004#32, 0x100#32) := by decide

/-- V-SW-1. -/
theorem test_step_swiHalt :
    (after [] ⟨false, false, false, false⟩ 0xEF000000#32).map
        (fun t => (t.halted, t.pc)) =
      some (true, 0x1004#32) := by decide

/-- V-SW-6. -/
theorem test_step_swiHalt_failed :
    (after [] ⟨false, false, false, false⟩ 0x0F000000#32).map
        (fun t => t.halted) =
      some false := by decide

/-- V-SW-2. -/
theorem test_step_swiDumpRegisters :
    (after [(0, 0x11#32)] ⟨false, false, false, false⟩ 0xEF000001#32).map
        (fun t => decide (t.diag = [⟨.dumpRegisters t.regs, t.regs⟩] ∧ t.regs[15] = 0x1004#32)) = some true := by decide

/-- V-SW-3; the snapshot of R6 beside it. -/
theorem test_step_swiPrintR0 :
    (after [(0, 0x11#32)] ⟨false, false, false, false⟩ 0xEF000002#32).map
        (fun t => decide (t.diag = [⟨.printR0 0x11#32, t.regs⟩] ∧ t.regs[15] = 0x1004#32)) = some true := by decide

/-- V-SW-5. -/
theorem test_step_swiOther :
    (after [] ⟨false, false, false, false⟩ 0xEFFFFFFF#32).map
        (fun t => (t.halted, t.diag.map (·.event))) =
      some (false, []) := by decide

/-- V-UN-2. -/
theorem test_step_unknownSel11 :
    (after [] ⟨false, false, false, false⟩ 0xEE000000#32).map
        (fun t => (t.pc, t.diag.map (·.event))) =
      some (0x1004#32, []) := by decide

/-- V-SH-27: the condition fails, reserved all the same. -/
theorem test_refused_dpReservedShiftKind : stop [(1, 0x100#32)] 0x01A00041#32 = some .reservedShiftKind := by decide

/-- V-SH-26. -/
theorem test_refused_dpReservedBit7 : stop [(1, 0x100#32)] 0xE1A000B1#32 = some .reservedShiftBit7 := by decide

/-- V-LS-50. -/
theorem test_refused_lsReservedP0W1 : stop [(1, 0x100#32)] 0xE4B12004#32 = some .reservedAddressing := by decide

/-- V-LS-51. -/
theorem test_refused_lsReservedShiftedOffset : stop [(1, 0x100#32)] 0xE7912103#32 = some .reservedShiftedOffset := by decide

/-- V-LS-52. -/
theorem test_refused_ldrImmPre_same : stop [(1, 0x100#32)] 0xE5B11004#32 = some .reservedBaseUpdate := by decide

/-- V-LS-53. -/
theorem test_refused_ldrImmPost_same : stop [(1, 0x100#32)] 0xE4911004#32 = some .reservedBaseUpdate := by decide

/-- V-LS-54. -/
theorem test_refused_strImmPost_same : stop [(1, 0x100#32)] 0xE4811004#32 = some .reservedBaseUpdate := by decide

/-! Cases that meet the hypotheses of the statements of Certificates/Slice0/Obligations.lean, at the boundaries of each
clause. Statements without hypotheses have none. -/

theorem test_meets_DecodeOfEncode :
    (Instr.movImm .al false 0 0 0 0x8F).wellFormed = true ∧ (Instr.movImm .al false 0 0 0 0xA0).wellFormed = true ∧
    (Instr.undef0011 .al true 0x40).wellFormed = true ∧ (Instr.undef1111 .al false 0xA0).wellFormed = true ∧
    (Instr.lsReservedShiftedOffset .al 0x1000010).wellFormed = true ∧ (Instr.swiOther .al 3).wellFormed = true ∧
    (Instr.swiOther .al 0xFFFFFF).wellFormed = true ∧ (Instr.unknownSel11 0 0b10 0).wellFormed = true := by decide

theorem test_meets_BytesDecodeLittleEndian :
    ([] : List Byte).length < 4 ∧ ([0x05, 0x00, 0xA0] : List Byte).length < 4 := by decide

/-- Two Unknown words that agree on the bits the classifier reads and on few others. -/
theorem test_meets_ClassifierFollowsBits : ∀ k, (24 ≤ k ∧ k ≤ 27) ∨ (4 ≤ k ∧ k ≤ 7) →
    (0xE8BD8000#32).getLsbD k = (0x08000000#32).getLsbD k := by
  intro k hk
  have h : k < 28 := by omega
  interval_cases k <;> first | rfl | omega

theorem test_meets_IgnoredBitsHaveNoEffect :
    immNotMultiply 0x8F = true ∧ immNotMultiply 0xA0 = true ∧ classify 0xE8BD8000#32 = .unknown ∧
      classify 0x0DFFFFFF#32 = .unknown ∧ (Instr.undef0011 .al true 0x1FFF6F#21).wellFormed = true ∧
      (Instr.undef0011 .al false 0x00003F#21).wellFormed = true := by decide

theorem test_meets_StepRunsDecoded :
    (fresh 0xE3A00005#32).halted = false ∧ memLookup (fresh 0xE3A00005#32).mem 0 = some 0x05#8 ∧
    memLookup (fresh 0xE3A00005#32).mem 1 = some 0x00#8 ∧ memLookup (fresh 0xE3A00005#32).mem 2 = some 0xA0#8 ∧
    memLookup (fresh 0xE3A00005#32).mem 3 = some 0xE3#8 ∧
    decodeBytes [0x05, 0x00, 0xA0, 0xE3] = .ok (.movImm .al false 0 0 0 5, []) := ⟨rfl, rfl, rfl, rfl, rfl, rfl⟩

theorem test_meets_StepFollowsPseudocode :
    (fresh 0xE3A00005#32).halted = false ∧ (fresh 0xE3A00005#32).params.warnGated = true := by decide

theorem test_meets_HaltedCoreStays :
    ({ State.reset with halted := true } : State).halted = true ∧
      Reaches { State.reset with halted := true } { State.reset with halted := true } :=
  ⟨rfl, .step (t := { State.reset with halted := true }) rfl (.refl _)⟩

/-- MOVEQ with Z false; an undefined opcode that fails gated, and one that fails ungated. -/
theorem test_meets_FailedConditionDoesNothing :
    ∀ s ∈ [fresh 0x03A00005#32, fresh 0x02600000#32, freshOpen 0x02600000#32],
    s.halted = false ∧ classify (fetch s).1 ≠ .unknown ∧ reservedWord (fetch s).1 = false ∧
      conditionPassed (getCond (fetch s).1) s.flags = false := by decide

theorem test_meets_FailedConditionDoesNothing_clauses :
    (fresh 0x02600000#32).params.warnGated = true ∧
    ¬ ((freshOpen 0x02600000#32).params.warnGated = true ∨
      classify (fetch (freshOpen 0x02600000#32)).1 ≠ .dataProcessing ∨
      Pseudocode.undefinedOpcode (getBits (fetch (freshOpen 0x02600000#32)).1 21 4) = false) := by decide

theorem test_meets_UnknownWordsSkipped_sel10 :
    (fresh 0xE8BD8000#32).halted = false ∧ classify (fetch (fresh 0xE8BD8000#32)).1 = .unknown ∧
      (fresh 0x09FFFFFF#32).halted = false ∧ classify (fetch (fresh 0x09FFFFFF#32)).1 = .unknown := by decide

theorem test_meets_UnknownWordsSkipped_sel11 :
    (fresh 0xEC000000#32).halted = false ∧ classify (fetch (fresh 0xEC000000#32)).1 = .unknown ∧
      (fresh 0x0EFFFFFF#32).halted = false ∧ classify (fetch (fresh 0x0EFFFFFF#32)).1 = .unknown := by decide

theorem test_meets_UndefinedOpcodesComplete :
    conditionPassed .al State.reset.flags = true ∧ (freshOpen 0).params.warnGated = false ∧
    ¬ (conditionPassed .eq State.reset.flags = true ∨ State.reset.params.warnGated = false) := by decide

theorem test_meets_ShiftByImmediateAmount :
    (0#5 : BitVec 5) = 0#5 ∧ operandShiftImm (start [(1, 0x80000001#32)] ⟨false, false, false, false⟩) 0#5 .lsr 1 =
      0x80000001#32 ∧
    operandShiftImm (start [(1, 0x80000001#32)] ⟨false, false, false, false⟩) 31#5 .lsl 1 = 0x80000000#32 := by decide

/-- The boundary amounts 0, 1, 31, 32, 255, each with bits above the low byte set. -/
theorem test_meets_ShiftByRegisterAmount :
    ∀ n ∈ [0, 1, 31, 32, 255],
      n = ((start [(2, BitVec.ofNat 32 (0x300 + n))] ⟨false, false, false, false⟩).reg 2).toNat % 256 := by decide

theorem test_meets_RotatedImmediateBits :
    0 < 32 ∧ 31 < 32 ∧ (operandImm 1#4 0x3F#8).getLsbD 31 = true ∧ (operandImm 4#4 0xFF#8).getLsbD 0 = false := by decide

/-- For every completion statement: a condition that always passes, and one that passes on the flags. -/
theorem test_meets_condition :
    conditionPassed .al State.reset.flags = true ∧ conditionPassed .ne ⟨true, true, true, true⟩ = true ∧
    conditionPassed .eq ⟨false, true, false, false⟩ = true ∧ conditionPassed .lt ⟨true, false, false, false⟩ = true := by
  decide

theorem test_meets_LogicalInstructionsComplete :
    conditionPassed .al (start [(1, 0xF0#32)] ⟨false, false, true, true⟩).flags = true ∧
    0xF0#32 = (start [(1, 0xF0#32)] ⟨false, false, true, true⟩).reg 1 ∧ 0xFF000000#32 = operandImm 4#4 0xFF#8 ∧
    0xF#32 = operandShiftImm (start [(1, 0xF0#32)] ⟨false, false, true, true⟩) 4#5 .lsr 1 ∧
    0#32 = operandShiftReg (start [(1, 0xF0#32)] ⟨false, false, true, true⟩) 1 .lsr 1 := by decide

/-- The same case meets the hypotheses of ADD and SUB, and CMP's disjunction in each of its three forms. -/
theorem test_meets_CompareCompletes :
    (∃ rotate imm8, Instr.cmpImm .al false 1 0 4#4 0xFF#8 = .cmpImm .al false 1 0 rotate imm8 ∧
      0xFF000000#32 = operandImm rotate imm8) ∧
    (∃ shamt kind rm, Instr.cmpShiftImm .al false 1 0 4#5 .lsr 1 = .cmpShiftImm .al false 1 0 shamt kind rm ∧
      0xF#32 = operandShiftImm (start [(1, 0xF0#32)] ⟨false, false, true, true⟩) shamt kind rm) ∧
    ∃ rs kind rm, Instr.cmpShiftReg .al false 1 0 1 .lsr 1 = .cmpShiftReg .al false 1 0 rs kind rm ∧
      0#32 = operandShiftReg (start [(1, 0xF0#32)] ⟨false, false, true, true⟩) rs kind rm :=
  ⟨⟨4#4, 0xFF#8, rfl, by decide⟩, ⟨4#5, .lsr, 1, rfl, by decide⟩, 1, .lsr, 1, rfl, by decide⟩

theorem test_meets_ArithmeticInstructionsComplete :
    conditionPassed .eq (start [(1, 0xF0#32)] ⟨false, true, false, false⟩).flags = true ∧
    0xF0#32 = (start [(1, 0xF0#32)] ⟨false, true, false, false⟩).reg 1 ∧ 0xC000000F#32 = operandImm 1#4 0x3F#8 ∧
    0xF0#32 = operandShiftImm (start [(1, 0xF0#32)] ⟨false, true, false, false⟩) 0#5 .lsl 1 ∧
    0#32 = operandShiftReg (start [(1, 0xF0#32)] ⟨false, true, false, false⟩) 1 .lsl 1 := by decide

theorem test_meets_MultiplyInstructionsComplete :
    conditionPassed .al State.reset.flags = true ∧
    42#32 = (start [(0, 6#32), (1, 7#32)] State.reset.flags).reg 0 * (start [(0, 6#32), (1, 7#32)] State.reset.flags).reg 1 ∧
    48#32 = (start [(0, 6#32), (1, 7#32)] State.reset.flags).reg 0 * (start [(0, 6#32), (1, 7#32)] State.reset.flags).reg 1 +
      (start [(0, 6#32), (1, 7#32)] State.reset.flags).reg 0 := by decide

theorem test_meets_LoadOffsetCompletes :
    (∃ imm12, Instr.ldrImmOffset .al true false 1 15 0xFFF#12 = .ldrImmOffset .al true false 1 15 imm12 ∧
      0xFFF#32 = offsetImm imm12) ∧
    (∃ rm, Instr.ldrRegOffset .al false false 1 1 15 = .ldrRegOffset .al false false 1 1 rm ∧
      0x1008#32 = offsetOfReg (start [] State.reset.flags) rm) ∧
    0x100B#32 - 0x1008#32 = (if false then (start [(1, 0x100B#32)] State.reset.flags).reg 1 + 0x1008#32
      else (start [(1, 0x100B#32)] State.reset.flags).reg 1 - 0x1008#32) :=
  ⟨⟨0xFFF#12, rfl, by decide⟩, ⟨15, rfl, by decide⟩, by decide⟩

/-- Each of the four forms, with rd not rn. -/
theorem test_meets_LoadBaseUpdateCompletes :
    (2 : RegNo) ≠ 1 ∧ conditionPassed .al State.reset.flags = true ∧
    (∃ imm12, Instr.ldrImmPre .al true false 1 2 4 = .ldrImmPre .al true false 1 2 imm12 ∧ 4#32 = offsetImm imm12 ∧
      (start [(1, 0x100#32)] State.reset.flags).reg 1 + 4#32 = 0x104#32) ∧
    (∃ rm, Instr.ldrRegPre .al true false 1 2 15 = .ldrRegPre .al true false 1 2 rm ∧
      0x1008#32 = offsetOfReg (start [(1, 0x100#32)] State.reset.flags) rm) ∧
    (∃ imm12, Instr.ldrImmPost .al true false 1 2 0xFFF = .ldrImmPost .al true false 1 2 imm12 ∧
      0xFFF#32 = offsetImm imm12 ∧ 0x100#32 = (start [(1, 0x100#32)] State.reset.flags).reg 1) ∧
    ∃ rm, Instr.ldrRegPost .al true false 1 2 1 = .ldrRegPost .al true false 1 2 rm ∧
      0x100#32 = offsetOfReg (start [(1, 0x100#32)] State.reset.flags) rm :=
  ⟨by decide, by decide, ⟨4, rfl, by decide, by decide⟩, ⟨15, rfl, by decide⟩, ⟨0xFFF, rfl, by decide, by decide⟩, 1, rfl,
    by decide⟩

theorem test_meets_StoreOffsetCompletes :
    conditionPassed .al State.reset.flags = true ∧
    (∃ imm12, Instr.strImmOffset .al false false 1 1 1 = .strImmOffset .al false false 1 1 imm12 ∧
      1#32 = offsetImm imm12 ∧
      0xFFFFFFFF#32 = (if false then (start [(1, 0)] State.reset.flags).reg 1 + 1#32
        else (start [(1, 0)] State.reset.flags).reg 1 - 1#32)) ∧
    ∃ rm, Instr.strRegOffset .al true false 1 15 15 = .strRegOffset .al true false 1 15 rm ∧
      0x1008#32 = offsetOfReg (start [] State.reset.flags) rm :=
  ⟨by decide, ⟨1, rfl, by decide, by decide⟩, 15, rfl, by decide⟩

/-- Each of the four forms, with rd not rn; rn is 15 in one. -/
theorem test_meets_StoreBaseUpdateCompletes :
    (2 : RegNo) ≠ 1 ∧ (2 : RegNo) ≠ 15 ∧ conditionPassed .al State.reset.flags = true ∧
    (∃ imm12, Instr.strImmPre .al true false 15 2 4 = .strImmPre .al true false 15 2 imm12 ∧ 4#32 = offsetImm imm12 ∧
      (start [] State.reset.flags).reg 15 + 4#32 = 0x1004#32) ∧
    (∃ rm, Instr.strRegPre .al true false 1 2 15 = .strRegPre .al true false 1 2 rm ∧
      0x1008#32 = offsetOfReg (start [] State.reset.flags) rm) ∧
    (∃ imm12, Instr.strImmPost .al true false 1 2 0xFFF = .strImmPost .al true false 1 2 imm12 ∧
      0xFFF#32 = offsetImm imm12 ∧ 0x100#32 = (start [(1, 0x100#32)] State.reset.flags).reg 1) ∧
    ∃ rm, Instr.strRegPost .al true false 1 2 2 = .strRegPost .al true false 1 2 rm ∧
      0#32 = offsetOfReg (start [] State.reset.flags) rm :=
  ⟨by decide, by decide, by decide, ⟨4, rfl, by decide, by decide⟩, ⟨15, rfl, by decide⟩,
    ⟨0xFFF, rfl, by decide, by decide⟩, 2, rfl, by decide⟩

/-- A word of each family, for the four statements about handlers; a reserved one and an undefined opcode among them. -/
theorem test_meets_handlers :
    classify 0xE2600000#32 = .dataProcessing ∧ classify 0xE1A00041#32 = .dataProcessing ∧
    State.reset.params.warnGated = true ∧ classify 0x03FFFF9F#32 = .multiply ∧ classify 0x0BFFFFFF#32 = .branch ∧
    classify 0xFFFFFFFF#32 = .softwareInterrupt ∧ classify 0xE7F000F0#32 = .loadStore := by decide

/-- n = 0 and n = 4; an address beside the four bytes that cross the top. -/
theorem test_meets_StoredBytesLand :
    0 ≤ 4 ∧ 4 ≤ 4 ∧ (∀ i, i < 4 → 2 ≠ ((0xFFFFFFFE#32).toNat + i) % 2 ^ 32) ∧
      ∀ i, i < 4 → 0xFFFFFFFD ≠ ((0xFFFFFFFE#32).toNat + i) % 2 ^ 32 := by decide

theorem test_meets_StoreProperties :
    State.reset.params.fillMode = .deterministic ∧ memLookup State.reset.mem (0xFFFFFFFF#32).toNat = none := by decide

theorem test_meets_ReadsNeverWrite :
    memLookup (fresh 0xE3A00005#32).mem (3#32).toNat = some 0xE3#8 ∧
    memLookup (fresh 0xE3A00005#32).mem (4#32).toNat = none ∧
    (fresh 0xE3A00005#32).params.fillMode = .deterministic ∧
    memLookup (freshOpen 0xE3A00005#32).mem (4#32).toNat = none ∧
    (freshOpen 0xE3A00005#32).params.fillMode = .random := by decide

/-- A word half written, half not, in random mode: two draws. -/
theorem test_meets_WordReadIsFourByteReads :
    readByte (freshOpen 0xE3A00005#32) 2#32 = (0xA0#8, freshOpen 0xE3A00005#32) ∧
    readByte (freshOpen 0xE3A00005#32) (BitVec.ofNat 32 (2 + 1)) = (0xE3#8, freshOpen 0xE3A00005#32) ∧
    readByte (freshOpen 0xE3A00005#32) (BitVec.ofNat 32 (2 + 2)) =
      (Config.fillDraw 0, (freshOpen 0xE3A00005#32).countDraw) ∧
    readByte (freshOpen 0xE3A00005#32).countDraw (BitVec.ofNat 32 (2 + 3)) =
      (Config.fillDraw 1, (freshOpen 0xE3A00005#32).countDraw.countDraw) := ⟨rfl, rfl, rfl, rfl⟩

/-- STR r2, [pc] and STR r2, [pc, #3], the first and the last byte of the next instruction; the pre-indexed and the
post-indexed form with base 15, which move register 15 to the applied address; the register forms with offset r0 = 0. -/
theorem test_meets_StoreSeenByNextFetch :
    conditionPassed .al State.reset.flags = true ∧
    (∃ t, exec (.strImmOffset .al true false 15 2 0) State.reset = .next t ∧
      accessAddr State.reset .offset true 15 (offsetImm 0) = t.pc + BitVec.ofNat 32 0) ∧
    (∃ t, exec (.strImmOffset .al true false 15 2 3) State.reset = .next t ∧
      accessAddr State.reset .offset true 15 (offsetImm 3) = t.pc + BitVec.ofNat 32 3) ∧
    (∃ t, exec (.strImmPre .al true false 15 2 8) State.reset = .next t ∧
      accessAddr State.reset .preIndexed true 15 (offsetImm 8) = t.pc + BitVec.ofNat 32 0) ∧
    (∃ t, exec (.strImmPost .al false false 15 2 3) State.reset = .next t ∧
      accessAddr State.reset .postIndexed false 15 (offsetImm 3) = t.pc + BitVec.ofNat 32 3) ∧
    (∃ t, exec (.strRegOffset .al true false 1 2 0) State.reset = .next t ∧
      accessAddr State.reset .offset true 1 (offsetOfReg State.reset 0) = t.pc + BitVec.ofNat 32 0) ∧
    (∃ t, exec (.strRegPre .al true false 1 2 0) State.reset = .next t ∧
      accessAddr State.reset .preIndexed true 1 (offsetOfReg State.reset 0) = t.pc + BitVec.ofNat 32 0) ∧
    ∃ t, exec (.strRegPost .al true false 1 2 0) State.reset = .next t ∧
      accessAddr State.reset .postIndexed true 1 (offsetOfReg State.reset 0) = t.pc + BitVec.ofNat 32 0 :=
  ⟨rfl, ⟨_, rfl, by decide⟩, ⟨_, rfl, by decide⟩, ⟨_, rfl, by decide⟩, ⟨_, rfl, by decide⟩, ⟨_, rfl, by decide⟩,
    ⟨_, rfl, by decide⟩, _, rfl, by decide⟩

theorem test_meets_ResetLeaves : (0 : RegNo) ≠ 15 ∧ (14 : RegNo) ≠ 15 ∧ State.reset = State.resetWith Config.params 0#32 [] :=
  ⟨by decide, by decide, rfl⟩

/-- Of the pair at 0xFFFFFFFD, byte 3 (address 0) is covered by the later pair at 0, bytes 0 to 2 by none; address 4 lies
beside them. -/
theorem test_meets_BootStoresPairs :
    (∀ i, i < 3 → ∀ j, j < 4 → ((0xFFFFFFFD#32).toNat + i) % 2 ^ 32 ≠ ((0#32).toNat + j) % 2 ^ 32) ∧
    ((0xFFFFFFFD#32).toNat + 3) % 2 ^ 32 = ((0#32).toNat + 0) % 2 ^ 32 ∧
    (∀ i, i < 4 → 4 ≠ ((0xFFFFFFFD#32).toNat + i) % 2 ^ 32) ∧ ∀ i, i < 4 → 4 ≠ ((0#32).toNat + i) % 2 ^ 32 := by decide

/-- The pairs themselves: the later one wins at address 0, the earlier one keeps its other bytes. -/
theorem test_boot_later_pair_wins :
    (memLookup (loadImage [(0xFFFFFFFD#32, 0x44332211#32), (0#32, 0xDDCCBBAA#32)]) 0xFFFFFFFF,
      memLookup (loadImage [(0xFFFFFFFD#32, 0x44332211#32), (0#32, 0xDDCCBBAA#32)]) 0) = (some 0x33#8, some 0xAA#8) := by
  decide

/-- A step that stores. -/
theorem test_meets_StepKeepsMemoryCanonical :
    Inv (fresh 0xE5012001#32) ∧ ∃ t, step (fresh 0xE5012001#32) = .next t ∧ t.mem ≠ (fresh 0xE5012001#32).mem :=
  ⟨by decide, afterStep (fresh 0xE5012001#32), rfl, by decide⟩

theorem test_meets_WrittenBytesStayWritten :
    Reaches (fresh 0xE5812000#32) (afterStep (fresh 0xE5812000#32)) ∧
      (memLookup (fresh 0xE5812000#32).mem 0).isSome = true := ⟨.step rfl (.refl _), by decide⟩

/-- A step that stores, one whose store fails its condition, one that stores nothing, and a halted core. -/
theorem test_meets_OnlyStoresWriteOneByte :
    (∃ t, step (fresh 0xE5812003#32) = .next t) ∧
    storeOf (fetch (fresh 0xE5812003#32)).2 (decodeWord (fetch (fresh 0xE5812003#32)).1) = some (3#32, 0#8) ∧
    conditionPassed (getCond (fetch (fresh 0xE5812003#32)).1) (fresh 0xE5812003#32).flags = true ∧
    (∃ t, step (fresh 0x05812003#32) = .next t) ∧
    conditionPassed (getCond (fetch (fresh 0x05812003#32)).1) (fresh 0x05812003#32).flags = false ∧
    (∃ t, step (fresh 0xE3A00005#32) = .next t) ∧
    storeOf (fetch (fresh 0xE3A00005#32)).2 (decodeWord (fetch (fresh 0xE3A00005#32)).1) = none ∧
    ∃ t, step { State.reset with halted := true } = .next t :=
  ⟨⟨_, rfl⟩, by decide, by decide, ⟨_, rfl⟩, by decide, ⟨_, rfl⟩, by decide, _, rfl⟩

/-- The address of every form, from r1 = 0x100, r2 = 0xAABBCCDD and register 15 at 0x1000. -/
theorem test_storeOf_forms :
    [Instr.strImmOffset .al true false 1 2 1, .strImmPre .al false false 1 2 1, .strImmPost .al true false 1 2 1,
      .strRegOffset .al true false 1 2 15, .strRegPre .al false false 1 2 1, .strRegPost .al true false 1 2 15,
      .ldrImmPost .al true false 1 2 1].map
        (storeOf (start [(1, 0x100#32), (2, 0xAABBCCDD#32)] State.reset.flags)) =
      [some (0x101#32, 0xDD#8), some (0xFF#32, 0xDD#8), some (0x100#32, 0xDD#8), some (0x1108#32, 0xDD#8),
        some (0#32, 0xDD#8), some (0x100#32, 0xDD#8), none] := by decide

/-- SWI 0 that halts, SWIEQ 0 that does not. -/
theorem test_meets_OnlyServiceZeroHalts :
    (fresh 0xEF000000#32).halted = false ∧ (∃ t, step (fresh 0xEF000000#32) = .next t ∧ t.halted = true) ∧
    (fresh 0x0F000000#32).halted = false ∧ ∃ t, step (fresh 0x0F000000#32) = .next t ∧ t.halted = false :=
  ⟨rfl, ⟨_, rfl, rfl⟩, rfl, _, rfl, rfl⟩

/-- CMP r0, r0 from reset changes Z and C. -/
theorem test_meets_FlagWriters :
    (fresh 0xE1500000#32).halted = false ∧ step (fresh 0xE1500000#32) = .next (afterStep (fresh 0xE1500000#32)) ∧
    (afterStep (fresh 0xE1500000#32)).flags ≠ (fresh 0xE1500000#32).flags ∧
    (afterStep (fresh 0xE1500000#32)).flags.c ≠ (fresh 0xE1500000#32).flags.c := ⟨rfl, rfl, by decide, by decide⟩

/-- MOV r0, #5; and BEQ with Z false. -/
theorem test_meets_ControlTransfersAreListed :
    (fresh 0xE3A00005#32).halted = false ∧ (∃ t, step (fresh 0xE3A00005#32) = .next t) ∧
    mayTransferControl (decodeWord (fetch (fresh 0xE3A00005#32)).1) = false ∧
    (∃ t, step (fresh 0x0A000010#32) = .next t) ∧ classify (fetch (fresh 0x0A000010#32)).1 ≠ .unknown ∧
    conditionPassed (getCond (fetch (fresh 0x0A000010#32)).1) (fresh 0x0A000010#32).flags = false :=
  ⟨rfl, ⟨_, rfl⟩, by decide, ⟨_, rfl⟩, by decide, by decide⟩

/-- A step with a next state and a refused one. -/
theorem test_meets_CarryHasNoInfluence :
    (∃ t, step (fresh 0xE1500000#32) = .next t) ∧ ∃ r, step (fresh 0xE1A00041#32) = .refused r := ⟨⟨_, rfl⟩, _, rfl⟩

/-- A step that emits an event and one that does not. -/
theorem test_meets_DiagIsOutputOnly :
    (∃ t, step (fresh 0xEF000002#32) = .next t ∧ t.diag.length = 1) ∧
      ∃ t, step (fresh 0xE3A00005#32) = .next t ∧ t.diag = [] := ⟨⟨_, rfl, rfl⟩, _, rfl, rfl⟩

/-- A load of four never-written bytes, in deterministic and in random mode. -/
theorem test_meets_ParametersAndDraws :
    (∃ t, step (fresh 0xE5912200#32) = .next t ∧ t.draws = 0) ∧
    (fresh 0xE5912200#32).params.fillMode = .deterministic ∧
      ∃ t, step (freshOpen 0xE5912200#32) = .next t ∧ t.draws = 4 := ⟨⟨_, rfl, rfl⟩, rfl, _, rfl, rfl⟩

/-- Deterministic mode with nothing written, and random mode with the instruction written. -/
theorem test_meets_TraceShowsFetchedWord :
    State.reset.params.fillMode = .deterministic ∧ (freshOpen 0xE3A00005#32).params.fillMode = .random ∧
      ∀ k, k < 4 →
        (memLookup (freshOpen 0xE3A00005#32).mem
          ((freshOpen 0xE3A00005#32).pc + BitVec.ofNat 32 k).toNat).isSome = true := by decide

/-- One word of each family (both operand kinds where there are two), its fields read off the word by hand (R109). -/
theorem test_decodeResult_fields :
    decodeResult 0xE3A00005#32 = ⟨0xE, .dataProcessing, .dataProcessing true 0xD false 0 0 (.imm 0 5)⟩ ∧
    decodeResult 0xE1A00231#32 = ⟨0xE, .dataProcessing, .dataProcessing false 0xD false 0 0 (.shiftReg 1 1 2)⟩ ∧
    decodeResult 0xE1B00FA1#32 = ⟨0xE, .dataProcessing, .dataProcessing false 0xD true 0 0 (.shiftImm 1 1 31)⟩ ∧
    decodeResult 0xE0331092#32 = ⟨0xE, .multiply, .multiply true true 3 1 0 2⟩ ∧
    decodeResult 0xDB000001#32 = ⟨0xD, .branch, .branch true 1⟩ ∧
    decodeResult 0xE5B12004#32 = ⟨0xE, .loadStore, .loadStore false true true true true 1 2 (.imm 4)⟩ ∧
    decodeResult 0xE6012003#32 = ⟨0xE, .loadStore, .loadStore true false false false false 1 2 (.reg 3)⟩ ∧
    decodeResult 0xEF000002#32 = ⟨0xE, .softwareInterrupt, .softwareInterrupt 2⟩ ∧
    decodeResult 0x1E123456#32 = ⟨1, .unknown, .unknown⟩ := by decide

end Sys2Proof.Tests.Slice0
end

section
/-! PROOFS for spec/00_scope.md: an instruction completes exactly when it is admitted (R12), and a step keeps the
parameters (R5) and draws random fill bytes within a bound (spec/20_memory.md R52). -/

namespace Sys2Proof.Machine

/-! Which outcomes have a next state -/

/-- A refusal has no next state. -/
theorem refused_not_next (r : Refusal) : ¬ ∃ t, (.refused r : Host.Outcome State Fault Refusal) = .next t := by
  rintro ⟨t, h⟩
  cases h

/-- The gate of a form with base update answers a next state exactly when rn and rd differ, whether the condition
passes or not (spec/45_load_store.md R241, R230). -/
theorem unlessReserved_next_iff (mode : AddrMode) (cond : Cond) (rn rd : RegNo) (s : State) (e : State → State)
    (hm : updatesBase mode = true) : (∃ t, unlessReserved mode cond rn rd s e = .next t) ↔ (rn != rd) = true := by
  by_cases h : rn = rd
  · subst h
    rw [unlessReserved_self mode cond rn s e hm]
    exact iff_of_false (refused_not_next _) (by simp)
  · rw [unlessReserved_of_ne mode cond rn rd s e h]
    exact iff_of_true ⟨_, rfl⟩ (by simpa using h)

/-- Settles O19: the four reserved rows are refused, the eight base-update forms follow their gate, and every other
meaning is a next state by its definition. -/
theorem completesExactlyWhenAdmitted : Obligations.CompletesExactlyWhenAdmitted := by
  intro i s
  cases i
  case dpReservedShiftKind => exact iff_of_false (refused_not_next _) Bool.false_ne_true
  case dpReservedBit7 => exact iff_of_false (refused_not_next _) Bool.false_ne_true
  case lsReservedP0W1 => exact iff_of_false (refused_not_next _) Bool.false_ne_true
  case lsReservedShiftedOffset => exact iff_of_false (refused_not_next _) Bool.false_ne_true
  case ldrImmPre => exact unlessReserved_next_iff .preIndexed _ _ _ s _ rfl
  case ldrImmPost => exact unlessReserved_next_iff .postIndexed _ _ _ s _ rfl
  case ldrRegPre => exact unlessReserved_next_iff .preIndexed _ _ _ s _ rfl
  case ldrRegPost => exact unlessReserved_next_iff .postIndexed _ _ _ s _ rfl
  case strImmPre => exact unlessReserved_next_iff .preIndexed _ _ _ s _ rfl
  case strImmPost => exact unlessReserved_next_iff .postIndexed _ _ _ s _ rfl
  case strRegPre => exact unlessReserved_next_iff .preIndexed _ _ _ s _ rfl
  case strRegPost => exact unlessReserved_next_iff .postIndexed _ _ _ s _ rfl
  all_goals exact iff_of_true ⟨_, rfl⟩ rfl

/-! How many random bytes are drawn -/

/-- From `s` to `t` the parameters stay and at most `n` random fill bytes are drawn, none of them in deterministic
mode (spec/00_scope.md R5, spec/20_memory.md R52). -/
structure DrawsAtMost (n : Nat) (s t : State) : Prop where
  params : t.params = s.params
  lower : s.draws ≤ t.draws
  upper : t.draws ≤ s.draws + n
  deterministic : s.params.fillMode = .deterministic → t.draws = s.draws

/-- Whatever leaves both fields alone draws nothing, which is within any bound. -/
theorem DrawsAtMost.of_eq {n : Nat} {s t : State} (hp : t.params = s.params) (hd : t.draws = s.draws) :
    DrawsAtMost n s t := ⟨hp, hd.ge, by omega, fun _ => hd⟩

/-- The bounds of two parts add up. -/
theorem DrawsAtMost.trans {m n : Nat} {s t u : State} (h₁ : DrawsAtMost m s t) (h₂ : DrawsAtMost n t u) :
    DrawsAtMost (m + n) s u where
  params := h₂.params.trans h₁.params
  lower := h₁.lower.trans h₂.lower
  upper := by have := h₁.upper; have := h₂.upper; omega
  deterministic hm := (h₂.deterministic (h₁.params ▸ hm)).trans (h₁.deterministic hm)

/-- A byte read draws for a never-written byte in random mode only. -/
theorem readByte_drawsAtMost (s : State) (a : Word) : DrawsAtMost 1 s (readByte s a).2 := by
  cases hl : memLookup s.mem a.toNat with
  | some b =>
    rw [readByte_of_some s a b hl]
    exact .of_eq rfl rfl
  | none =>
    cases hm : s.params.fillMode with
    | deterministic =>
      rw [readByte_of_none_deterministic s a hl hm]
      exact .of_eq rfl rfl
    | random =>
      rw [readByte_of_none_random s a hl hm]
      exact ⟨rfl, Nat.le_succ _, Nat.le_refl _, by simp [hm]⟩

/-- A word read is four byte reads (spec/20_memory.md R53). -/
theorem readWord_drawsAtMost (s : State) (a : Word) : DrawsAtMost 4 s (readWord s a).2 :=
  (((readByte_drawsAtMost _ _).trans (readByte_drawsAtMost _ _)).trans (readByte_drawsAtMost _ _)).trans
    (readByte_drawsAtMost _ _)

/-- The fetch is one word read; the advance of register 15 draws nothing. -/
theorem fetch_drawsAtMost (s : State) : DrawsAtMost 4 s (fetch s).2 :=
  (readWord_drawsAtMost s s.pc).trans (n := 0) (.of_eq rfl rfl)

/-- A load reads one word; no other effect draws. -/
theorem Effect.drawsAtMost {s t : State} (h : Effect s t) : DrawsAtMost 4 s t := by
  cases h with
  | load mode up rn rd off =>
    exact (readWord_drawsAtMost s (accessAddr s mode up rn off)).trans (n := 0)
      (.of_eq (by simp) (loadEffect_draws ..))
  | store => exact .of_eq (storeEffect_params ..) (storeEffect_draws ..)
  | none | dp | cmp | mul | jump | link | halt | emit => exact .of_eq rfl rfl

/-- A step draws at most four bytes for the fetch and four for a load. -/
theorem step_drawsAtMost {s t : State} (h : step s = .next t) : DrawsAtMost 8 s t := by
  obtain ⟨_, rfl⟩ | ⟨_, he⟩ := step_effect s t h
  · exact .of_eq rfl rfl
  · exact (fetch_drawsAtMost s).trans he.drawsAtMost

/-- Settles O59: the fields of the bound of a step. -/
theorem parametersAndDraws : Obligations.ParametersAndDraws := by
  intro s t h
  obtain ⟨hparams, hlower, hupper, hdeterministic⟩ := step_drawsAtMost h
  exact ⟨hparams, hlower, hupper, hdeterministic⟩

end Sys2Proof.Machine
end

section
/-! PROOFS for spec/10_state.md: fetch (R23, R26), reset (R33), the memory (R31), the flags and who writes them (R28),
the carry that nothing reads (R29) and the trace display (R35). -/

namespace Sys2Proof.Machine

open Sys2Proof.Safety

/-! Fetch and reset -/

/-- Settles O13: the fetch's own laws, field by field. -/
theorem fetchAdvances : Obligations.FetchAdvances := by
  intro s
  refine ⟨rfl, ?_, fetch_reg_of_ne s, fetch_flags s, fun a => ?_, fetch_halted s, fetch_diag s, fetch_params s⟩
  · rw [fetch_pc, BitVec.toNat_add]
    rfl
  · rw [fetch_mem]

/-- The registers at reset: ENTRY_PC in register 15, zero in every other. -/
theorem resetWith_reg (p : Params) (entry : Word) (m : Memory) (r : RegNo) :
    (State.resetWith p entry m).reg r = if r = pcNum then entry else 0#32 := by
  by_cases h : r = pcNum
  · subst h
    simp [State.reg, State.resetWith, resetRegs]
  · have hr : 15 ≠ r.val := fun e => h (Fin.ext e.symm)
    simp [State.reg, State.resetWith, resetRegs, h, hr]

/-- Settles O48: the registers by their law, the other fields by the definition of reset. -/
theorem resetLeaves : Obligations.ResetLeaves := by
  rintro p entry m _ rfl
  refine ⟨fun r hr => ?_, ?_, rfl, rfl, rfl, rfl, rfl, rfl⟩
  · rw [resetWith_reg, if_neg hr]
  · rw [resetWith_reg, if_pos rfl]

/-- The memory a load leaves is in canonical form: each pair is a store (spec/70_reset_and_hazards.md R301). -/
theorem loadImage_wf (pairs : List (Word × Word)) : (loadImage pairs).wf :=
  List.foldlRecOn pairs _ ⟨.nil, nofun⟩ fun m hm p _ => memStore_wf m p.1 4 p.2 hm

/-- Settles O49: State.reset holds the memory of the empty load, and a boot that of its pairs. -/
theorem resetMemoryCanonical : Obligations.ResetMemoryCanonical := ⟨loadImage_wf [], fun _ => loadImage_wf⟩

/-! The memory along steps (R31) -/

/-- An effect leaves the memory as it is or inserts one byte into it. -/
theorem Effect.mem_cases {s t : State} (h : Effect s t) :
    t.mem = s.mem ∨ ∃ (a : Word) (b : Byte), t.mem = memInsert s.mem a.toNat b := by
  cases h with
  | store => exact .inr ⟨_, _, storeEffect_mem ..⟩
  | load => exact .inl (loadEffect_mem ..)
  | none | dp | cmp | mul | jump | link | halt | emit => exact .inl rfl

/-- A step leaves the memory as it is or inserts one byte into it. -/
theorem step_mem_cases {s t : State} (h : step s = .next t) :
    t.mem = s.mem ∨ ∃ (a : Word) (b : Byte), t.mem = memInsert s.mem a.toNat b := by
  obtain ⟨_, rfl⟩ | ⟨_, he⟩ := step_effect s t h
  · exact .inl rfl
  · simpa using he.mem_cases

/-- Settles O51: the one byte a step may insert keeps the canonical form. -/
theorem stepKeepsMemoryCanonical : Obligations.StepKeepsMemoryCanonical := by
  intro s t hinv h
  obtain hm | ⟨a, b, hm⟩ := step_mem_cases h
  · rwa [Safety.Inv, hm]
  · rw [Safety.Inv, hm]
    exact memInsert_wf s.mem a.toNat b hinv a.isLt

/-- A byte written before a step is written after it. -/
theorem step_keeps_written {s t : State} {a : Nat} (h : step s = .next t) (ha : (memLookup s.mem a).isSome = true) :
    (memLookup t.mem a).isSome = true := by
  obtain hm | ⟨c, b, hm⟩ := step_mem_cases h
  · rwa [hm]
  · rw [hm]
    exact memLookup_memInsert_isSome s.mem c.toNat a b ha

/-- Settles O52: by induction on the run. -/
theorem writtenBytesStayWritten : Obligations.WrittenBytesStayWritten := by
  intro s t a hrun
  induction hrun with
  | refl => exact id
  | step first _ ih => exact fun ha => ih (step_keeps_written first ha)

/-! The condition of an instruction, and what its failure leaves (spec/40_step_and_condition.md R132) -/

/-- The condition an instruction is gated by; an Unknown word has none (spec/47_unknown_undefined.md R270). -/
def condOf : Instr → Option Cond
  | .unknownSel10 .. | .unknownSel11 .. => none
  | .mul cond .. | .mla cond .. | .dpReservedShiftKind cond .. | .dpReservedBit7 cond ..
  | .andImm cond .. | .andShiftImm cond .. | .andShiftReg cond ..
  | .eorImm cond .. | .eorShiftImm cond .. | .eorShiftReg cond ..
  | .subImm cond .. | .subShiftImm cond .. | .subShiftReg cond ..
  | .addImm cond .. | .addShiftImm cond .. | .addShiftReg cond ..
  | .cmpImm cond .. | .cmpShiftImm cond .. | .cmpShiftReg cond ..
  | .orrImm cond .. | .orrShiftImm cond .. | .orrShiftReg cond ..
  | .movImm cond .. | .movShiftImm cond .. | .movShiftReg cond ..
  | .bicImm cond .. | .bicShiftImm cond .. | .bicShiftReg cond ..
  | .undef0011 cond .. | .undef0101 cond .. | .undef0110 cond .. | .undef0111 cond ..
  | .undef1000 cond .. | .undef1001 cond .. | .undef1011 cond .. | .undef1111 cond ..
  | .lsReservedP0W1 cond .. | .lsReservedShiftedOffset cond ..
  | .ldrImmOffset cond .. | .ldrImmPre cond .. | .ldrImmPost cond ..
  | .ldrRegOffset cond .. | .ldrRegPre cond .. | .ldrRegPost cond ..
  | .strImmOffset cond .. | .strImmPre cond .. | .strImmPost cond ..
  | .strRegOffset cond .. | .strRegPre cond .. | .strRegPost cond ..
  | .b cond .. | .bl cond ..
  | .swiHalt cond | .swiDumpRegisters cond | .swiPrintR0 cond | .swiOther cond .. => some cond

theorem condOf_decodeUndefined (w : Word) : condOf (decodeUndefined w) = some (getCond w) := by
  unfold decodeUndefined
  split <;> rfl

theorem condOf_decodeDataProcessing (w : Word) : condOf (decodeDataProcessing w) = some (getCond w) := by
  obtain ⟨hImm, hShiftImm, hShiftReg⟩ : condOf (decodeDpImm w) = some (getCond w) ∧
      condOf (decodeDpShiftImm w) = some (getCond w) ∧ condOf (decodeDpShiftReg w) = some (getCond w) := by
    unfold decodeDpImm decodeDpShiftImm decodeDpShiftReg
    refine ⟨?_, ?_, ?_⟩
    all_goals split
    any_goals rfl
    all_goals exact condOf_decodeUndefined w
  simp only [decodeDataProcessing, apply_ite condOf, hImm, hShiftImm, hShiftReg]
  simp only [condOf, ite_self]

theorem condOf_decodeLoadStore (w : Word) : condOf (decodeLoadStore w) = some (getCond w) := by
  obtain ⟨hImm, hReg⟩ : condOf (decodeLsImm w) = some (getCond w) ∧ condOf (decodeLsReg w) = some (getCond w) := by
    unfold decodeLsImm decodeLsReg
    refine ⟨?_, ?_⟩
    all_goals split <;> rfl
  simp only [decodeLoadStore, apply_ite condOf, hImm, hReg]
  simp only [condOf, ite_self]

theorem condOf_decodeMultiply (w : Word) : condOf (decodeMultiply w) = some (getCond w) := by
  unfold decodeMultiply
  split <;> rfl

theorem condOf_decodeBranch (w : Word) : condOf (decodeBranch w) = some (getCond w) := by
  unfold decodeBranch
  split <;> rfl

theorem condOf_decodeSoftwareInterrupt (w : Word) : condOf (decodeSoftwareInterrupt w) = some (getCond w) := by
  unfold decodeSoftwareInterrupt
  split <;> rfl

theorem condOf_decodeUnknown (w : Word) : condOf (decodeUnknown w) = none := by
  unfold decodeUnknown
  split <;> rfl

/-- A decoded instruction is gated by the condition field of its word, unless the word is Unknown (R83, R270). -/
theorem condOf_decodeWord (w : Word) :
    condOf (decodeWord w) = if classify w = .unknown then none else some (getCond w) := by
  unfold decodeWord
  cases classify w
  case dataProcessing => exact condOf_decodeDataProcessing w
  case multiply => exact condOf_decodeMultiply w
  case branch => exact condOf_decodeBranch w
  case loadStore => exact condOf_decodeLoadStore w
  case softwareInterrupt => exact condOf_decodeSoftwareInterrupt w
  case unknown => exact condOf_decodeUnknown w

/-- The outcomes under a condition: a refusal, an effect behind the condition, or the warning of an undefined opcode;
without a condition, a skip. -/
inductive GatedBy (s : State) : Option Cond → Host.Outcome State Fault Refusal → Prop where
  | skip : GatedBy s none (skip s)
  | refused (oc : Option Cond) (r : Refusal) : GatedBy s oc (.refused r)
  | effect (cond : Cond) (e : State → State) : GatedBy s (some cond) (whenPassed cond s e)
  | warn (cond : Cond) : GatedBy s (some cond) (warnUndefined cond s)

theorem GatedBy.base (mode : AddrMode) (cond : Cond) (rn rd : RegNo) (s : State) (e : State → State) :
    GatedBy s (some cond) (unlessReserved mode cond rn rd s e) := by
  unfold unlessReserved
  split
  · exact .refused _ _
  · exact .effect _ _

/-- Every instruction is gated by its condition. -/
theorem exec_gatedBy (i : Instr) (s : State) : GatedBy s (condOf i) (exec i s) := by
  cases i
  case unknownSel10 | unknownSel11 => exact .skip
  case dpReservedShiftKind | dpReservedBit7 | lsReservedP0W1 | lsReservedShiftedOffset => exact .refused _ _
  case undef0011 | undef0101 | undef0110 | undef0111 | undef1000 | undef1001 | undef1011 | undef1111 =>
    exact .warn _
  case ldrImmPre | ldrImmPost | ldrRegPre | ldrRegPost | strImmPre | strImmPost | strRegPre | strRegPost =>
    exact .base ..
  case swiDumpRegisters cond => exact .effect cond fun s => s.emit (.dumpRegisters s.regs)
  case swiPrintR0 cond => exact .effect cond fun s => s.emit (.printR0 (s.reg 0))
  all_goals exact .effect _ _

/-- An undefined opcode does nothing or emits its warning (spec/47_unknown_undefined.md R271). -/
theorem warnUndefined_cases {cond : Cond} {s t : State} (h : warnUndefined cond s = .next t) :
    t = s ∨ t = s.emit .undefinedOpcodeWarning := by
  simp only [warnUndefined, Host.Outcome.next.injEq] at h
  subst h
  split
  · exact .inr rfl
  · exact .inl rfl

/-- A gate that lets nothing through leaves the state as it is, but for the warning of an undefined opcode. -/
theorem GatedBy.of_failed {s t : State} {oc : Option Cond} {o : Host.Outcome State Fault Refusal} (hg : GatedBy s oc o)
    (hf : ∀ cond, oc = some cond → conditionPassed cond s.flags = false) (h : o = .next t) :
    t = s ∨ t = s.emit .undefinedOpcodeWarning := by
  cases hg with
  | skip => cases h; exact .inl rfl
  | refused => cases h
  | effect cond e =>
    rw [whenPassed_of_failed cond s e (hf cond rfl)] at h
    cases h
    exact .inl rfl
  | warn cond => exact warnUndefined_cases h

/-- A word whose condition field fails leaves the state as it is, but for the warning of an undefined opcode. -/
theorem exec_decodeWord_of_failed {w : Word} {s t : State} (hf : conditionPassed (getCond w) s.flags = false)
    (h : exec (decodeWord w) s = .next t) : t = s ∨ t = s.emit .undefinedOpcodeWarning := by
  refine (exec_gatedBy (decodeWord w) s).of_failed (fun cond hcond => ?_) h
  rw [condOf_decodeWord] at hcond
  split at hcond
  · cases hcond
  · cases hcond
    exact hf

/-- A core that is not halted executes the word it fetches (spec/40_step_and_condition.md R130). -/
theorem step_of_not_halted {s : State} (h : s.halted = false) :
    step s = exec (decodeWord (fetch s).1) (fetch s).2 := by
  simp [step, h]

/-! The writers of the flags (R28) -/

/-- From `f` to `g` no flag changes unless `any` allows it, and neither C nor V unless `cv` does. -/
structure FlagsAllowed (any cv : Bool) (f g : Flags) : Prop where
  same : any = false → g = f
  carry : cv = false → g.c = f.c
  overflow : cv = false → g.v = f.v

/-- Flags that stay are allowed whatever may change. -/
theorem FlagsAllowed.of_eq {any cv : Bool} {f g : Flags} (h : g = f) : FlagsAllowed any cv f g :=
  ⟨fun _ => h, fun _ => h ▸ rfl, fun _ => h ▸ rfl⟩

/-- Where every flag may change, any flags are allowed. -/
theorem FlagsAllowed.all (f g : Flags) : FlagsAllowed true true f g := ⟨nofun, nofun, nofun⟩

/-- A gated meaning writes the flags of its effect or none. -/
theorem FlagsAllowed.of_whenPassed {any cv : Bool} {cond : Cond} {s t : State} {e : State → State}
    (h : whenPassed cond s e = .next t) (he : FlagsAllowed any cv s.flags (e s).flags) :
    FlagsAllowed any cv s.flags t.flags := by
  obtain ⟨_, rfl⟩ | ⟨_, rfl⟩ := whenPassed_cases cond s t e h
  · exact he
  · exact .of_eq rfl

theorem FlagsAllowed.of_unlessReserved {any cv : Bool} {mode : AddrMode} {cond : Cond} {rn rd : RegNo} {s t : State}
    {e : State → State} (h : unlessReserved mode cond rn rd s e = .next t)
    (he : FlagsAllowed any cv s.flags (e s).flags) : FlagsAllowed any cv s.flags t.flags :=
  .of_whenPassed (unlessReserved_cases mode cond rn rd s t e h) he

theorem FlagsAllowed.of_warnUndefined {any cv : Bool} {cond : Cond} {s t : State}
    (h : warnUndefined cond s = .next t) : FlagsAllowed any cv s.flags t.flags := by
  obtain rfl | rfl := warnUndefined_cases h
  · exact .of_eq rfl
  · exact .of_eq rfl

/-- A logical or multiply primitive writes N and Z on request, C and V never (spec/41_alu.md R162). -/
theorem flagsAllowed_aluLogical (r : Word) (upd : Bool) (f : Flags) :
    FlagsAllowed upd false f (aluLogical r upd f).flags := by
  cases upd
  · exact .of_eq rfl
  · exact ⟨nofun, fun _ => rfl, fun _ => rfl⟩

theorem flagsAllowed_aluAdd (a b : Word) (upd : Bool) (f : Flags) :
    FlagsAllowed upd upd f (aluAdd a b upd f).flags := by
  cases upd
  · exact .of_eq rfl
  · exact .all ..

theorem flagsAllowed_aluSub (a b : Word) (upd : Bool) (f : Flags) :
    FlagsAllowed upd upd f (aluSub a b upd f).flags := by
  cases upd
  · exact .of_eq rfl
  · exact .all ..

/-- An instruction writes no flag that R28's table does not give it. -/
theorem exec_flagsAllowed {i : Instr} {s t : State} (h : exec i s = .next t) :
    FlagsAllowed (mayWriteFlags i) (mayWriteCarryOverflow i) s.flags t.flags := by
  cases i
  case mul | mla => exact .of_whenPassed h (flagsAllowed_aluLogical ..)
  case andImm | andShiftImm | andShiftReg | eorImm | eorShiftImm | eorShiftReg | orrImm | orrShiftImm | orrShiftReg |
      movImm | movShiftImm | movShiftReg | bicImm | bicShiftImm | bicShiftReg =>
    exact .of_whenPassed h (flagsAllowed_aluLogical ..)
  case addImm | addShiftImm | addShiftReg => exact .of_whenPassed h (flagsAllowed_aluAdd ..)
  case subImm | subShiftImm | subShiftReg => exact .of_whenPassed h (flagsAllowed_aluSub ..)
  case cmpImm | cmpShiftImm | cmpShiftReg => exact .all ..
  case ldrImmOffset | ldrRegOffset => exact .of_whenPassed h (.of_eq (loadEffect_flags ..))
  case ldrImmPre | ldrImmPost | ldrRegPre | ldrRegPost =>
    exact .of_unlessReserved h (.of_eq (loadEffect_flags ..))
  case strImmOffset | strRegOffset => exact .of_whenPassed h (.of_eq (storeEffect_flags ..))
  case strImmPre | strImmPost | strRegPre | strRegPost =>
    exact .of_unlessReserved h (.of_eq (storeEffect_flags ..))
  case b | bl | swiHalt | swiOther => exact .of_whenPassed h (.of_eq rfl)
  case swiDumpRegisters => exact .of_whenPassed (e := fun s => s.emit (.dumpRegisters s.regs)) h (.of_eq rfl)
  case swiPrintR0 => exact .of_whenPassed (e := fun s => s.emit (.printR0 (s.reg 0))) h (.of_eq rfl)
  case undef0011 | undef0101 | undef0110 | undef0111 | undef1000 | undef1001 | undef1011 | undef1111 =>
    exact .of_warnUndefined h
  case unknownSel10 | unknownSel11 =>
    cases h
    exact .of_eq rfl
  case dpReservedShiftKind | dpReservedBit7 | lsReservedP0W1 | lsReservedShiftedOffset => cases h

/-- Settles O55: the fetch keeps the flags, the table bounds what the instruction may write, and a failed condition
writes none. -/
theorem flagWriters : Obligations.FlagWriters := by
  intro s t hh h
  rw [step_of_not_halted hh] at h
  have hf := exec_flagsAllowed h
  rw [fetch_flags] at hf
  refine ⟨fun hne => ⟨?_, ?_⟩, fun hcv => ?_⟩
  · exact Bool.eq_true_of_not_eq_false fun hm => hne (hf.same hm)
  · refine Bool.eq_true_of_not_eq_false fun hc => ?_
    rw [← fetch_flags s] at hne hc
    obtain rfl | rfl := exec_decodeWord_of_failed hc h
    · exact hne rfl
    · exact hne rfl
  · refine Bool.eq_true_of_not_eq_false fun hm => ?_
    exact hcv.elim (fun hc => hc (hf.carry hm)) (fun hv => hv (hf.overflow hm))

/-! The carry that nothing reads (R29) -/

@[simp] theorem withCarry_pc (s : State) (c : Bool) : (withCarry s c).pc = s.pc := rfl
@[simp] theorem withCarry_halted (s : State) (c : Bool) : (withCarry s c).halted = s.halted := rfl

/-- The second outcome is the first but for C: the same next state with some C, or the same refusal. -/
def SameButCarry (o o' : Host.Outcome State Fault Refusal) : Prop :=
  (∀ t, o = .next t → ∃ c, o' = .next (withCarry t c)) ∧ ∀ r, o = .refused r → o' = .refused r

theorem SameButCarry.next {t t' : State} (h : ∃ c, t' = withCarry t c) : SameButCarry (.next t) (.next t') := by
  obtain ⟨c, rfl⟩ := h
  refine ⟨fun u hu => ?_, nofun⟩
  cases hu
  exact ⟨c, rfl⟩

theorem SameButCarry.refused (r : Refusal) : SameButCarry (.refused r) (.refused r) := ⟨nofun, fun _ => id⟩

section
variable {cond : Cond} {s : State} {c : Bool} {e e' : State → State}

/-- No condition reads C (spec/40_step_and_condition.md R133), so effects that agree but for C agree behind it. -/
theorem SameButCarry.of_whenPassed (h : ∃ c', e' (withCarry s c) = withCarry (e s) c') :
    SameButCarry (whenPassed cond s e) (whenPassed cond (withCarry s c) e') := by
  cases hp : conditionPassed cond s.flags
  · rw [whenPassed_of_failed cond s e hp, whenPassed_of_failed cond (withCarry s c) e' hp]
    exact .next ⟨c, rfl⟩
  · rw [whenPassed_of_passed cond s e hp, whenPassed_of_passed cond (withCarry s c) e' hp]
    exact .next h

theorem SameButCarry.of_unlessReserved {mode : AddrMode} {rn rd : RegNo}
    (h : ∃ c', e' (withCarry s c) = withCarry (e s) c') :
    SameButCarry (unlessReserved mode cond rn rd s e) (unlessReserved mode cond rn rd (withCarry s c) e') := by
  unfold unlessReserved
  split
  · exact .refused _
  · exact .of_whenPassed h

theorem SameButCarry.of_warnUndefined :
    SameButCarry (warnUndefined cond s) (warnUndefined cond (withCarry s c)) := by
  refine .next ⟨c, ?_⟩
  change (if conditionPassed cond s.flags || !s.params.warnGated then _ else _) = _
  split <;> rfl

end

/-- A byte read neither reads nor writes a flag. -/
theorem readByte_withCarry (s : State) (c : Bool) (a : Word) :
    readByte (withCarry s c) a = ((readByte s a).1, withCarry (readByte s a).2 c) := by
  cases hl : memLookup s.mem a.toNat with
  | some b => rw [readByte_of_some s a b hl, readByte_of_some (withCarry s c) a b hl]
  | none =>
    cases hm : s.params.fillMode with
    | deterministic =>
      rw [readByte_of_none_deterministic s a hl hm, readByte_of_none_deterministic (withCarry s c) a hl hm]
    | random =>
      rw [readByte_of_none_random s a hl hm, readByte_of_none_random (withCarry s c) a hl hm]
      rfl

theorem readWord_withCarry (s : State) (c : Bool) (a : Word) :
    readWord (withCarry s c) a = ((readWord s a).1, withCarry (readWord s a).2 c) := by
  simp only [readWord, readByte_withCarry]

theorem fetch_withCarry (s : State) (c : Bool) :
    fetch (withCarry s c) = ((fetch s).1, withCarry (fetch s).2 c) := by
  simp only [fetch, withCarry_pc, readWord_withCarry]
  rfl

/-- A primitive whose value and flags, but for C, do not depend on C. -/
def CarryBlind (alu : AluOp) : Prop :=
  ∀ (a b : Word) (upd : Bool) (f : Flags) (c : Bool),
    ∃ c', alu a b upd { f with c := c } = ⟨(alu a b upd f).value, { (alu a b upd f).flags with c := c' }⟩

/-- AND, EOR, ORR, BIC and MOV keep the C they are given (spec/41_alu.md R162). -/
theorem carryBlind_logical (op : Word → Word → Word) : CarryBlind fun a b => aluLogical (op a b)
  | _, _, true, _, c => ⟨c, rfl⟩
  | _, _, false, _, c => ⟨c, rfl⟩

/-- ADD keeps the C it is given or computes it from its operands (spec/41_alu.md R157). -/
theorem carryBlind_aluAdd : CarryBlind aluAdd
  | _, _, true, _, _ => ⟨_, rfl⟩
  | _, _, false, _, c => ⟨c, rfl⟩

/-- SUB keeps the C it is given or computes it from its operands (spec/41_alu.md R158). -/
theorem carryBlind_aluSub : CarryBlind aluSub
  | _, _, true, _, _ => ⟨_, rfl⟩
  | _, _, false, _, c => ⟨c, rfl⟩

theorem dpWrite_withCarry {alu : AluOp} (h : CarryBlind alu) (upd : Bool) (rn rd : RegNo) (b : Word) (s : State)
    (c : Bool) : ∃ c', dpWrite alu upd rn rd b (withCarry s c) = withCarry (dpWrite alu upd rn rd b s) c' := by
  obtain ⟨c', hc'⟩ := h (s.reg rn) b upd s.flags c
  have halu : alu ((withCarry s c).reg rn) b upd (withCarry s c).flags = _ := hc'
  refine ⟨c', ?_⟩
  simp only [dpWrite, halu]
  rfl

theorem mulWrite_withCarry (rd : RegNo) (r : Word) (upd : Bool) (s : State) (c : Bool) :
    mulWrite rd (aluLogical r upd (withCarry s c).flags) (withCarry s c) =
      withCarry (mulWrite rd (aluLogical r upd s.flags) s) c := by
  cases upd <;> rfl

theorem loadEffect_withCarry (mode : AddrMode) (up : Bool) (rn rd : RegNo) (off : Word) (s : State) (c : Bool) :
    loadEffect mode up rn rd off (withCarry s c) = withCarry (loadEffect mode up rn rd off s) c := by
  have ha : accessAddr (withCarry s c) mode up rn off = accessAddr s mode up rn off := rfl
  simp only [loadEffect, ha, readWord_withCarry]
  cases mode <;> rfl

theorem storeEffect_withCarry (mode : AddrMode) (up : Bool) (rn rd : RegNo) (off : Word) (s : State) (c : Bool) :
    storeEffect mode up rn rd off (withCarry s c) = withCarry (storeEffect mode up rn rd off s) c := by
  cases mode <;> rfl

/-- No instruction reads C: operands and addresses are made of registers, the gate and the effects are blind to it. -/
theorem exec_sameButCarry (i : Instr) (s : State) (c : Bool) :
    SameButCarry (exec i s) (exec i (withCarry s c)) := by
  cases i
  case mul | mla => exact .of_whenPassed ⟨c, mulWrite_withCarry ..⟩
  case andImm | andShiftImm | andShiftReg | eorImm | eorShiftImm | eorShiftReg | orrImm | orrShiftImm | orrShiftReg |
      movImm | movShiftImm | movShiftReg | bicImm | bicShiftImm | bicShiftReg =>
    exact .of_whenPassed (dpWrite_withCarry (carryBlind_logical _) ..)
  case addImm | addShiftImm | addShiftReg => exact .of_whenPassed (dpWrite_withCarry carryBlind_aluAdd ..)
  case subImm | subShiftImm | subShiftReg => exact .of_whenPassed (dpWrite_withCarry carryBlind_aluSub ..)
  case cmpImm | cmpShiftImm | cmpShiftReg => exact .of_whenPassed ⟨_, rfl⟩
  case ldrImmOffset | ldrRegOffset => exact .of_whenPassed ⟨c, loadEffect_withCarry ..⟩
  case ldrImmPre | ldrImmPost | ldrRegPre | ldrRegPost =>
    exact .of_unlessReserved ⟨c, loadEffect_withCarry ..⟩
  case strImmOffset | strRegOffset => exact .of_whenPassed ⟨c, storeEffect_withCarry ..⟩
  case strImmPre | strImmPost | strRegPre | strRegPost =>
    exact .of_unlessReserved ⟨c, storeEffect_withCarry ..⟩
  case b | bl | swiHalt | swiOther => exact .of_whenPassed ⟨c, rfl⟩
  case swiDumpRegisters =>
    exact .of_whenPassed (e := fun s => s.emit (.dumpRegisters s.regs))
      (e' := fun s => s.emit (.dumpRegisters s.regs)) ⟨c, rfl⟩
  case swiPrintR0 =>
    exact .of_whenPassed (e := fun s => s.emit (.printR0 (s.reg 0))) (e' := fun s => s.emit (.printR0 (s.reg 0)))
      ⟨c, rfl⟩
  case undef0011 | undef0101 | undef0110 | undef0111 | undef1000 | undef1001 | undef1011 | undef1111 =>
    exact .of_warnUndefined
  case unknownSel10 | unknownSel11 => exact .next ⟨c, rfl⟩
  case dpReservedShiftKind | dpReservedBit7 | lsReservedP0W1 | lsReservedShiftedOffset => exact .refused _

/-- Settles O57: the latch and the fetch are blind to C, and so is every instruction. -/
theorem carryHasNoInfluence : Obligations.CarryHasNoInfluence := by
  intro s c
  change SameButCarry (step s) (step (withCarry s c))
  simp only [step, withCarry_halted, fetch_withCarry]
  split
  · exact .next ⟨c, rfl⟩
  · exact exec_sameButCarry _ _ c

/-! The trace display (R35, spec/30_encoding.md R109) -/

/-- Where a byte is written or the fill is deterministic, the core reads what the trace display shows, and its read
changes nothing. -/
theorem readByte_eq_traceByte {s : State} {a : Word} (n : Nat)
    (h : s.params.fillMode = .deterministic ∨ (memLookup s.mem a.toNat).isSome = true) :
    readByte s a = (traceByte s n a, s) := by
  cases hl : memLookup s.mem a.toNat with
  | some b => simp [readByte_of_some s a b hl, traceByte, hl]
  | none =>
    have hm : s.params.fillMode = .deterministic := by simpa [hl] using h
    simp [readByte_of_none_deterministic s a hl hm, traceByte, hl, hm]

/-- The word the step fetches is the word the trace display reads. -/
theorem fetch_eq_traceWord {s : State} (t : Nat)
    (h : s.params.fillMode = .deterministic ∨
      ∀ k, k < 4 → (memLookup s.mem (s.pc + BitVec.ofNat 32 k).toNat).isSome = true) :
    (fetch s).1 = traceWord s t := by
  have hbyte (k n : Nat) (hk : k < 4) :
      readByte s (s.pc + BitVec.ofNat 32 k) = (traceByte s n (s.pc + BitVec.ofNat 32 k), s) :=
    readByte_eq_traceByte n (h.imp_right fun hall => hall k hk)
  have h0 : readByte s s.pc = (traceByte s (4 * t) s.pc, s) := by simpa using hbyte 0 (4 * t) (by decide)
  simp [fetch, readWord, traceWord, h0, hbyte 1 (4 * t + 1) (by decide), hbyte 2 (4 * t + 2) (by decide),
    hbyte 3 (4 * t + 3) (by decide)]

/-- `get_bit` is the bit (spec/30_encoding.md R82). -/
theorem getBit_eq_getLsbD (w : Word) (n : Nat) : getBit w n = w.getLsbD n := by
  have h : getBits w n 1 = BitVec.ofBool (w.getLsbD n) := by
    ext j hj
    simp [getBits, show j = 0 by omega]
  rw [getBit, h]
  cases w.getLsbD n <;> rfl

/-- Settles O60: the display's word is the fetched one, and its fields are R109's, family by family. -/
theorem traceShowsFetchedWord : Obligations.TraceShowsFetchedWord := by
  rintro s n _ w rfl rfl h
  have hw : nextDecode s n = decodeResult (fetch s).1 := by rw [nextDecode, fetch_eq_traceWord n h]
  rw [hw]
  refine ⟨rfl, rfl, rfl, ?_⟩
  simp only [decodeResult]
  cases classify (fetch s).1 <;> simp [decodedFields, decodedOperand, getBit_eq_getLsbD, getBits]

end Sys2Proof.Machine
end

section
/-! PROOFS for spec/20_memory.md: reads and their fill bytes (R51 to R53), stores (R54, R66, R67), the fetch of what was
stored (R64), and which instructions store (R57). -/

namespace Sys2Proof.Machine

open Sys2Proof.Safety

/-! Words and their bytes (R53), addresses modulo 2^32 (R67) -/

/-- A byte appended below a number. -/
theorem toNat_append_byte {n : Nat} (x : BitVec n) (b : Byte) : (x ++ b).toNat = x.toNat * 2 ^ 8 + b.toNat := by
  rw [BitVec.toNat_append, ← Nat.shiftLeft_add_eq_or_of_lt b.isLt, Nat.shiftLeft_eq]

theorem wordOfBytes_toNat (b0 b1 b2 b3 : Byte) :
    (wordOfBytes b0 b1 b2 b3).toNat = b0.toNat + b1.toNat * 2 ^ 8 + b2.toNat * 2 ^ 16 + b3.toNat * 2 ^ 24 := by
  simp only [wordOfBytes, toNat_append_byte]
  omega

/-- The four bytes of a word make it up again. -/
theorem wordOfBytes_getBits (w : Word) :
    wordOfBytes (getBits w 0 8) (getBits w 8 8) (getBits w 16 8) (getBits w 24 8) = w := by
  rw [wordOfBytes, getBits_append w 16 8 8, getBits_append w 8 8 16, getBits_append w 0 8 24, getBits_self]

/-- The bytes of a word made of four bytes. -/
theorem getBits_wordOfBytes (b0 b1 b2 b3 : Byte) :
    getBits (wordOfBytes b0 b1 b2 b3) 0 8 = b0 ∧ getBits (wordOfBytes b0 b1 b2 b3) 8 8 = b1 ∧
      getBits (wordOfBytes b0 b1 b2 b3) 16 8 = b2 ∧ getBits (wordOfBytes b0 b1 b2 b3) 24 8 = b3 := by
  have h0 := b0.isLt
  have h1 := b1.isLt
  have h2 := b2.isLt
  have h3 := b3.isLt
  simp only [getBits, ← BitVec.toNat_inj, BitVec.extractLsb'_toNat, wordOfBytes_toNat, Nat.shiftRight_eq_div_pow]
  omega

theorem getBits_ushiftRight (v : Word) (k o n : Nat) : getBits (v >>> k) o n = getBits v (k + o) n := by
  ext j hj
  simp [getBits, Nat.add_assoc]

theorem getBits_zero_eq_setWidth (v : Word) (n : Nat) : getBits v 0 n = v.setWidth n := by
  ext j hj
  simp [getBits]

theorem toNat_add_ofNat (a : Word) (k : Nat) : (a + BitVec.ofNat 32 k).toNat = (a.toNat + k) % 2 ^ 32 := by simp

/-! Stores (R54, R66) -/

/-- A store leaves every address alone that is none of its own. -/
theorem memLookup_memStore_of_ne (m : Memory) (addr : Word) (n : Nat) (v : Word) (a : Nat)
    (h : ∀ i, i < n → a ≠ (addr.toNat + i) % 2 ^ 32) : memLookup (memStore m addr n v) a = memLookup m a := by
  induction n generalizing m addr v with
  | zero => rfl
  | succ n ih =>
    have hhead : a ≠ addr.toNat := by simpa [Nat.mod_eq_of_lt addr.isLt] using h 0 n.succ_pos
    have htail : ∀ i, i < n → a ≠ ((addr + 1#32).toNat + i) % 2 ^ 32 := fun i hi => by
      rw [toNat_add_ofNat, Nat.mod_add_mod, Nat.add_right_comm]
      exact h (i + 1) (Nat.succ_lt_succ hi)
    calc memLookup (memStore m addr (n + 1) v) a
      _ = memLookup (memInsert m addr.toNat (getBits v 0 8)) a := ih _ _ _ htail
      _ = memLookup m a := memLookup_memInsert_of_ne m addr.toNat a _ hhead

/-- A store of no more bytes than there are addresses puts each byte at its own. -/
theorem memLookup_memStore_of_lt (m : Memory) (addr : Word) (n : Nat) (v : Word) (i : Nat) (hn : n ≤ 2 ^ 32)
    (hi : i < n) : memLookup (memStore m addr n v) ((addr.toNat + i) % 2 ^ 32) = some (getBits v (8 * i) 8) := by
  induction n generalizing m addr v i with
  | zero => cases hi
  | succ n ih =>
    have hnext : (addr + 1#32).toNat = (addr.toNat + 1) % 2 ^ 32 := toNat_add_ofNat addr 1
    have haddr := addr.isLt
    cases i with
    | zero =>
      rw [show (addr.toNat + 0) % 2 ^ 32 = addr.toNat by omega]
      refine (memLookup_memStore_of_ne _ (addr + 1#32) n _ _ fun j hj => ?_).trans (memLookup_memInsert_same ..)
      omega
    | succ i =>
      have := ih (memInsert m addr.toNat (getBits v 0 8)) (addr + 1#32) (v >>> 8) i (by omega) (by omega)
      rwa [hnext, Nat.mod_add_mod, Nat.add_assoc, Nat.add_comm 1 i, getBits_ushiftRight,
        show 8 + 8 * i = 8 * (i + 1) by omega] at this

/-- A second insert at an address overwrites the first. -/
theorem memInsert_memInsert_same (m : Memory) (a : Nat) (b c : Byte) :
    memInsert (memInsert m a b) a c = memInsert m a c := by
  induction m with
  | nil => simp [memInsert]
  | cons p t ih =>
    obtain ⟨k, x⟩ := p
    by_cases h1 : a < k
    · simp [memInsert, h1]
    · by_cases h2 : a = k
      · simp [memInsert, h2]
      · simp [memInsert, h1, h2, ih]

/-- A second store of one byte to an address overwrites the first. -/
theorem memWrite_memWrite_one (s : State) (a v u : Word) : (s.memWrite a 1 v).memWrite a 1 u = s.memWrite a 1 u :=
  congrArg s.setMem (memInsert_memInsert_same s.mem a.toNat _ _)

/-- Settles O43: the two laws of a lookup after a store. -/
theorem storedBytesLand : Obligations.StoredBytesLand := by
  intro s addr n v hn
  refine ⟨fun i hi => ?_, fun a ha => ?_⟩
  · exact memLookup_memStore_of_lt s.mem addr n v i (by omega) hi
  · exact memLookup_memStore_of_ne s.mem addr n v a ha

/-- Settles O44: what an insert leaves at its address, the deterministic fill, and the overwrite. -/
theorem storeProperties : Obligations.StoreProperties := by
  intro s a v u
  refine ⟨?_, fun hm ha => ?_, memWrite_memWrite_one s a v u⟩
  · refine readByte_of_some (s.memWrite a 1 v) a _ ?_
    rw [State.memWrite_mem, memStore_one, memLookup_memInsert_same, getBits_zero_eq_setWidth]
  · have h := readByte_of_none_deterministic s a ha hm
    exact ⟨h, by rwa [h]⟩

/-! Reads (R51 to R53) -/

/-- Settles O45: the three cases of a byte read, and the frame of a word read. -/
theorem readsNeverWrite : Obligations.ReadsNeverWrite := fun s a =>
  ⟨readByte_of_some s a, readByte_of_none_deterministic s a, readByte_of_none_random s a, readWord_mem s a⟩

/-- Settles O46: the word read is the chain of the four byte reads. -/
theorem wordReadIsFourByteReads : Obligations.WordReadIsFourByteReads := by
  intro s s1 s2 s3 s4 a b0 b1 b2 b3 h0 h1 h2 h3
  have haddr (k : Nat) : BitVec.ofNat 32 (a.toNat + k) = a + BitVec.ofNat 32 k := by simp [BitVec.ofNat_add]
  rw [haddr] at h1 h2 h3
  have hword : readWord s a = (wordOfBytes b0 b1 b2 b3, s4) := by simp only [readWord, h0, h1, h2, h3]
  rw [hword]
  exact ⟨rfl, wordOfBytes_toNat b0 b1 b2 b3⟩

/-- A word whose four bytes are in memory is read whole, and nothing changes. -/
theorem readWord_of_bytes (s : State) (a w : Word)
    (h : ∀ i, i < 4 → memLookup s.mem ((a.toNat + i) % 2 ^ 32) = some (getBits w (8 * i) 8)) :
    readWord s a = (w, s) := by
  have hbyte (k : Nat) (hk : k < 4) : memLookup s.mem (a + BitVec.ofNat 32 k).toNat = some (getBits w (8 * k) 8) := by
    rw [toNat_add_ofNat]
    exact h k hk
  have h0 : memLookup s.mem a.toNat = some (getBits w 0 8) := by simpa using hbyte 0 (by decide)
  rw [readWord_of_some s a _ _ _ _ h0 (hbyte 1 (by decide)) (hbyte 2 (by decide)) (hbyte 3 (by decide))]
  exact congrArg (·, s) (wordOfBytes_getBits w)

/-- A byte read of a written byte gives it, in any state with that memory. -/
theorem readByte_fst_of_mem {s t : State} {a : Word} {b : Byte} (hm : t.mem = s.mem)
    (h : memLookup s.mem a.toNat = some b) : (readByte t a).1 = b := by
  rw [readByte_of_some t a b (hm ▸ h)]

/-- A written byte is its byte of the word that is read around it, whatever the other bytes are filled with. -/
theorem getBits_readWord (s : State) (a : Word) (k : Nat) (b : Byte) (hk : k < 4)
    (h : memLookup s.mem (a + BitVec.ofNat 32 k).toNat = some b) : getBits (readWord s a).1 (8 * k) 8 = b := by
  let r0 := readByte s a
  let r1 := readByte r0.2 (a + 1#32)
  let r2 := readByte r1.2 (a + 2#32)
  let r3 := readByte r2.2 (a + 3#32)
  obtain ⟨hb0, hb1, hb2, hb3⟩ := getBits_wordOfBytes r0.1 r1.1 r2.1 r3.1
  match k, hk with
  | 0, _ => exact hb0.trans (readByte_fst_of_mem rfl (by simpa using h))
  | 1, _ => exact hb1.trans (readByte_fst_of_mem (by simp [r0]) h)
  | 2, _ => exact hb2.trans (readByte_fst_of_mem (by simp [r0, r1]) h)
  | 3, _ => exact hb3.trans (readByte_fst_of_mem (by simp [r0, r1, r2]) h)

/-! The placed word is fetched -/

/-- The four bytes of a placed word are where the fetch reads them, also across the top of memory. -/
theorem fetch_placeWord (s : State) (w : Word) :
    fetch (placeWord s w) = (w, (placeWord s w).setReg pcNum (s.pc + 4#32)) := by
  have hread : readWord (placeWord s w) s.pc = (w, placeWord s w) :=
    readWord_of_bytes _ _ _ fun i hi => memLookup_memStore_of_lt s.mem s.pc 4 w i (by decide) hi
  have hpc : (placeWord s w).pc = s.pc := rfl
  simp only [fetch, hpc, hread]

/-- Settles O14: the fetch of the placed word, and the step of a core with its latch open. -/
theorem placedWordIsFetched : Obligations.PlacedWordIsFetched := by
  intro s nbits w
  have hf := fetch_placeWord s (tableWord nbits w)
  refine ⟨congrArg Prod.fst hf, ?_⟩
  rw [step_of_not_halted rfl, State.withFetchWord, hf]

/-! Which instructions store (R57, spec/45_load_store.md R239) -/

/-- The condition of a decoded instruction is that of its word. -/
theorem cond_eq_getCond {w : Word} {cond : Cond} (h : condOf (decodeWord w) = some cond) : cond = getCond w := by
  rw [condOf_decodeWord] at h
  split at h
  · cases h
  · exact (Option.some.inj h).symm

/-- A memory after a store of one byte or of none. -/
def storeInto (m : Memory) : Option (Word × Byte) → Memory
  | none => m
  | some (addr, b) => memInsert m addr.toNat b

section
variable {cond : Cond} {s t : State} {e : State → State}

/-- A gated meaning keeps the memory if its effect does. -/
theorem mem_of_whenPassed (h : whenPassed cond s e = .next t) (he : (e s).mem = s.mem) : t.mem = s.mem := by
  obtain ⟨_, rfl⟩ | ⟨_, rfl⟩ := whenPassed_cases cond s t e h
  · exact he
  · rfl

theorem mem_of_unlessReserved {mode : AddrMode} {rn rd : RegNo} (h : unlessReserved mode cond rn rd s e = .next t)
    (he : (e s).mem = s.mem) : t.mem = s.mem :=
  mem_of_whenPassed (unlessReserved_cases mode cond rn rd s t e h) he

theorem mem_of_warnUndefined (h : warnUndefined cond s = .next t) : t.mem = s.mem := by
  obtain rfl | rfl := warnUndefined_cases h <;> rfl

/-- A store whose condition passes inserts the low byte of rd at the address of the access. -/
theorem mem_of_store {mode : AddrMode} {up : Bool} {rn rd : RegNo} {off : Word}
    (hc : ∀ c, some cond = some c → conditionPassed c s.flags = true)
    (h : whenPassed cond s (storeEffect mode up rn rd off) = .next t) :
    t.mem = storeInto s.mem (some (accessAddr s mode up rn off, (s.reg rd).setWidth 8)) := by
  rw [whenPassed_of_passed cond s _ (hc cond rfl)] at h
  cases h
  rw [storeEffect_mem, getBits_zero_eq_setWidth]
  rfl

end

/-- An instruction whose condition passes, or that has none, stores what `storeOf` gives it and nothing else. -/
theorem exec_mem_of_passed {i : Instr} {s t : State} (h : exec i s = .next t)
    (hc : ∀ cond, condOf i = some cond → conditionPassed cond s.flags = true) :
    t.mem = storeInto s.mem (storeOf s i) := by
  cases i
  case strImmOffset | strRegOffset => exact mem_of_store hc h
  case strImmPre | strImmPost | strRegPre | strRegPost =>
    exact mem_of_store hc (unlessReserved_cases _ _ _ _ _ _ _ h)
  case ldrImmOffset | ldrRegOffset => exact mem_of_whenPassed h (loadEffect_mem ..)
  case ldrImmPre | ldrImmPost | ldrRegPre | ldrRegPost => exact mem_of_unlessReserved h (loadEffect_mem ..)
  case swiDumpRegisters => exact mem_of_whenPassed (e := fun s => s.emit (.dumpRegisters s.regs)) h rfl
  case swiPrintR0 => exact mem_of_whenPassed (e := fun s => s.emit (.printR0 (s.reg 0))) h rfl
  case undef0011 | undef0101 | undef0110 | undef0111 | undef1000 | undef1001 | undef1011 | undef1111 =>
    exact mem_of_warnUndefined h
  case unknownSel10 | unknownSel11 =>
    cases h
    rfl
  case dpReservedShiftKind | dpReservedBit7 | lsReservedP0W1 | lsReservedShiftedOffset => cases h
  all_goals exact mem_of_whenPassed h rfl

/-- A stored byte is the one byte that changed. -/
theorem oneByteStored_of_mem {s t : State} {addr : Word} {b : Byte} (h : t.mem = memInsert s.mem addr.toNat b) :
    OneByteStored s t addr b := by
  rw [OneByteStored, h]
  exact ⟨memLookup_memInsert_same .., fun a => memLookup_memInsert_of_ne s.mem addr.toNat a b⟩

theorem sameBytes_of_mem {s t : State} (h : t.mem = s.mem) : SameBytes s t := fun a => by rw [h]

/-- Settles O53: the fetch keeps the memory; with a passing condition the instruction stores what `storeOf` says,
with a failing one nothing. -/
theorem onlyStoresWriteOneByte : Obligations.OnlyStoresWriteOneByte := by
  intro s t h
  refine ⟨fun hh => ?_, fun hh => ?_⟩
  · simp only [step, hh, if_true] at h
    cases h
    exact sameBytes_of_mem rfl
  rw [step_of_not_halted hh] at h
  rw [← fetch_flags s]
  cases hc : conditionPassed (getCond (fetch s).1) (fetch s).2.flags with
  | false =>
    have hmem : t.mem = s.mem := by
      obtain rfl | rfl := exec_decodeWord_of_failed hc h <;> simp
    split
    · exact sameBytes_of_mem hmem
    · exact sameBytes_of_mem hmem
  | true =>
    have hmem := exec_mem_of_passed h fun cond hcond => by rwa [cond_eq_getCond hcond]
    rw [fetch_mem] at hmem
    split
    next hs => exact sameBytes_of_mem (by rw [hmem, hs]; rfl)
    next addr b hs => exact oneByteStored_of_mem (by rw [hmem, hs]; rfl)

/-- Settles O47: the byte the STR stores is in the memory the next fetch reads. -/
theorem storeSeenByNextFetch : Obligations.StoreSeenByNextFetch := by
  intro s t cond up b22 rn rd rm imm12 k p hp h hc hk haddr
  obtain ⟨hcond, hstore⟩ : condOf p.1 = some cond ∧ storeOf s p.1 = some (p.2, (s.reg rd).setWidth 8) := by
    simp only [List.mem_cons, List.not_mem_nil, or_false] at hp
    obtain rfl | rfl | rfl | rfl | rfl | rfl := hp <;> exact ⟨rfl, rfl⟩
  have hmem := exec_mem_of_passed h fun c h' => by rwa [Option.some.inj (h'.symm.trans hcond)]
  rw [hstore] at hmem
  refine getBits_readWord t t.pc k _ hk ?_
  rw [← haddr, hmem]
  exact memLookup_memInsert_same ..

end Sys2Proof.Machine
end

section
/-! PROOFS for spec/30_encoding.md: the decoder and the encoder are inverse to each other (R91 to R105), the classifier
by bits (R86, R272), the reserved words (R96, R100), the ignored bits (R103), and bytes and fields (R80 to R82). -/

namespace Sys2Proof.Machine

open Sys2Proof.Laws Sys2Proof.Safety

/-! Decode of encode -/

/-- The word of a well-formed instruction is classified into its family (R86): the laws of the rows, put together. -/
theorem classify_encode : ∀ i : Instr, i.wellFormed = true → classify (encode i) = familyOf i
  | .mul .. => FamilyOfWord.mul _ _ _ _ _ _ _
  | .mla .. => FamilyOfWord.mla _ _ _ _ _ _ _
  | .dpReservedShiftKind .. => FamilyOfWord.dpReservedShiftKind _ _ _
  | .dpReservedBit7 .. => FamilyOfWord.dpReservedBit7 _ _ _
  | .andImm .. => FamilyOfWord.andImm _ _ _ _ _ _
  | .andShiftImm .. => FamilyOfWord.andShiftImm _ _ _ _ _ _ _
  | .andShiftReg .. => FamilyOfWord.andShiftReg _ _ _ _ _ _ _
  | .eorImm .. => FamilyOfWord.eorImm _ _ _ _ _ _
  | .eorShiftImm .. => FamilyOfWord.eorShiftImm _ _ _ _ _ _ _
  | .eorShiftReg .. => FamilyOfWord.eorShiftReg _ _ _ _ _ _ _
  | .subImm .. => FamilyOfWord.subImm _ _ _ _ _ _
  | .subShiftImm .. => FamilyOfWord.subShiftImm _ _ _ _ _ _ _
  | .subShiftReg .. => FamilyOfWord.subShiftReg _ _ _ _ _ _ _
  | .addImm .. => FamilyOfWord.addImm _ _ _ _ _ _
  | .addShiftImm .. => FamilyOfWord.addShiftImm _ _ _ _ _ _ _
  | .addShiftReg .. => FamilyOfWord.addShiftReg _ _ _ _ _ _ _
  | .cmpImm .. => FamilyOfWord.cmpImm _ _ _ _ _ _
  | .cmpShiftImm .. => FamilyOfWord.cmpShiftImm _ _ _ _ _ _ _
  | .cmpShiftReg .. => FamilyOfWord.cmpShiftReg _ _ _ _ _ _ _
  | .orrImm .. => FamilyOfWord.orrImm _ _ _ _ _ _
  | .orrShiftImm .. => FamilyOfWord.orrShiftImm _ _ _ _ _ _ _
  | .orrShiftReg .. => FamilyOfWord.orrShiftReg _ _ _ _ _ _ _
  | .movImm .. => FamilyOfWord.movImm _ _ _ _ _ _
  | .movShiftImm .. => FamilyOfWord.movShiftImm _ _ _ _ _ _ _
  | .movShiftReg .. => FamilyOfWord.movShiftReg _ _ _ _ _ _ _
  | .bicImm .. => FamilyOfWord.bicImm _ _ _ _ _ _
  | .bicShiftImm .. => FamilyOfWord.bicShiftImm _ _ _ _ _ _ _
  | .bicShiftReg .. => FamilyOfWord.bicShiftReg _ _ _ _ _ _ _
  | .undef0011 .. => FamilyOfWord.undef0011 _ _ _
  | .undef0101 .. => FamilyOfWord.undef0101 _ _ _
  | .undef0110 .. => FamilyOfWord.undef0110 _ _ _
  | .undef0111 .. => FamilyOfWord.undef0111 _ _ _
  | .undef1000 .. => FamilyOfWord.undef1000 _ _ _
  | .undef1001 .. => FamilyOfWord.undef1001 _ _ _
  | .undef1011 .. => FamilyOfWord.undef1011 _ _ _
  | .undef1111 .. => FamilyOfWord.undef1111 _ _ _
  | .lsReservedP0W1 .. => FamilyOfWord.lsReservedP0W1 _ _ _ _
  | .ldrImmOffset .. => FamilyOfWord.ldrImmOffset _ _ _ _ _ _
  | .ldrImmPre .. => FamilyOfWord.ldrImmPre _ _ _ _ _ _
  | .ldrImmPost .. => FamilyOfWord.ldrImmPost _ _ _ _ _ _
  | .ldrRegOffset .. => FamilyOfWord.ldrRegOffset _ _ _ _ _ _
  | .ldrRegPre .. => FamilyOfWord.ldrRegPre _ _ _ _ _ _
  | .ldrRegPost .. => FamilyOfWord.ldrRegPost _ _ _ _ _ _
  | .strImmOffset .. => FamilyOfWord.strImmOffset _ _ _ _ _ _
  | .strImmPre .. => FamilyOfWord.strImmPre _ _ _ _ _ _
  | .strImmPost .. => FamilyOfWord.strImmPost _ _ _ _ _ _
  | .strRegOffset .. => FamilyOfWord.strRegOffset _ _ _ _ _ _
  | .strRegPre .. => FamilyOfWord.strRegPre _ _ _ _ _ _
  | .strRegPost .. => FamilyOfWord.strRegPost _ _ _ _ _ _
  | .lsReservedShiftedOffset .. => FamilyOfWord.lsReservedShiftedOffset _ _
  | .b .. => FamilyOfWord.b _ _
  | .bl .. => FamilyOfWord.bl _ _
  | .unknownSel10 .. => FamilyOfWord.unknownSel10 _ _
  | .swiHalt .. => FamilyOfWord.swiHalt _
  | .swiDumpRegisters .. => FamilyOfWord.swiDumpRegisters _
  | .swiPrintR0 .. => FamilyOfWord.swiPrintR0 _
  | .swiOther .. => FamilyOfWord.swiOther _ _
  | .unknownSel11 .. => FamilyOfWord.unknownSel11 _ _ _

/-! The fields of the words that follow no shared format -/

section
variable (cond : Cond)

theorem getBits_dpReservedShiftKind (hi : BitVec 18) (lo : BitVec 6) :
    let w := encode (.dpReservedShiftKind cond hi lo)
    getBits w 28 4 = condBits cond ∧ getBits w 25 1 = 0#1 ∧ getBits w 7 18 = hi ∧ getBits w 6 1 = 1#1 ∧
      getBits w 0 6 = lo := by
  refine ⟨?_, ?_, ?_, ?_, ?_⟩ <;>
    simp (disch := decide) only [encode, getBits, BitVec.extractLsb'_append_eq_of_add_le,
      BitVec.extractLsb'_append_eq_of_le, Nat.reduceSub, BitVec.extractLsb'_eq_self]
  rfl

theorem getBits_dpReservedBit7 (hi : BitVec 17) (lo : BitVec 4) :
    let w := encode (.dpReservedBit7 cond hi lo)
    getBits w 28 4 = condBits cond ∧ getBits w 25 1 = 0#1 ∧ getBits w 8 17 = hi ∧ getBits w 4 4 = 0b1011#4 ∧
      getBits w 0 4 = lo := by
  refine ⟨?_, ?_, ?_, ?_, ?_⟩ <;>
    simp (disch := decide) only [encode, getBits, BitVec.extractLsb'_append_eq_of_add_le,
      BitVec.extractLsb'_append_eq_of_le, Nat.reduceSub, BitVec.extractLsb'_eq_self]
  rfl

theorem getBits_lsReservedP0W1 (imm : Bool) (hi : BitVec 2) (lo : BitVec 21) :
    let w := encode (.lsReservedP0W1 cond imm hi lo)
    getBits w 28 4 = condBits cond ∧ getBits w 25 1 = bit imm ∧ getBits w 24 1 = 0#1 ∧ getBits w 22 2 = hi ∧
      getBits w 21 1 = 1#1 ∧ getBits w 0 21 = lo := by
  refine ⟨?_, ?_, ?_, ?_, ?_, ?_⟩ <;>
    simp (disch := decide) only [encode, getBits, BitVec.extractLsb'_append_eq_of_add_le,
      BitVec.extractLsb'_append_eq_of_le, Nat.reduceSub, BitVec.extractLsb'_eq_self]

theorem getBits_lsReservedShiftedOffset (rest : BitVec 25) :
    let w := encode (.lsReservedShiftedOffset cond rest)
    getBits w 28 4 = condBits cond ∧ getBits w 25 1 = 1#1 ∧ getBits w 0 25 = rest := by
  refine ⟨?_, ?_, ?_⟩ <;>
    simp (disch := decide) only [encode, getBits, BitVec.extractLsb'_append_eq_of_add_le,
      BitVec.extractLsb'_append_eq_of_le, Nat.reduceSub, BitVec.extractLsb'_eq_self]
  rfl

end

section
variable (top : BitVec 4)

theorem getBits_unknownSel10 (rest : BitVec 25) :
    let w := encode (.unknownSel10 top rest)
    getBits w 28 4 = top ∧ getBits w 26 1 = 0#1 ∧ getBits w 0 25 = rest := by
  refine ⟨?_, ?_, ?_⟩ <;>
    simp (disch := decide) only [encode, getBits, BitVec.extractLsb'_append_eq_of_add_le,
      BitVec.extractLsb'_append_eq_of_le, Nat.reduceSub, BitVec.extractLsb'_eq_self]
  rfl

theorem getBits_unknownSel11 (sub : BitVec 2) (rest : BitVec 24) :
    let w := encode (.unknownSel11 top sub rest)
    getBits w 28 4 = top ∧ getBits w 26 1 = 1#1 ∧ getBits w 24 2 = sub ∧ getBits w 0 24 = rest := by
  refine ⟨?_, ?_, ?_, ?_⟩ <;>
    simp (disch := decide) only [encode, getBits, BitVec.extractLsb'_append_eq_of_add_le,
      BitVec.extractLsb'_append_eq_of_le, Nat.reduceSub, BitVec.extractLsb'_eq_self]
  rfl

end

/-! The checks of well-formedness, read off a word -/

/-- The immediate of a word spells the multiply marker exactly when the word has it (R87, R93). -/
theorem immNotMultiply_getBits (w : Word) : immNotMultiply (getBits w 0 8) = (getBits w 4 4 != 0b1001#4) := by
  rw [immNotMultiply, ← getBits_sub w 0 8 4 4 (by decide)]

/-- Bits 20:0 leave an undefined-opcode word in its row exactly when it has no marker and is not reserved (R96). -/
theorem undefNotOtherRow_getBits (w : Word) : undefNotOtherRow (getBit w 25) (getBits w 0 21) =
    (getBits w 4 4 != 0b1001#4 && !Pseudocode.reservedOperand w) := by
  rw [undefNotOtherRow, ← getBits_sub w 0 21 4 4 (by decide), ← getBits_sub w 0 21 6 1 (by decide),
    Pseudocode.reservedOperand]
  cases getBit w 25 <;> simp [getBit, bne]

/-- Bits 24:0 leave a shifted-offset word in its row exactly when bits 11:4 are not zero and P = 0, W = 1 does not
hold (R100). -/
theorem shiftedOffset_getBits (w : Word) :
    shiftedOffset (getBits w 0 25) = (getBits w 4 8 != 0#8 && !(!getBit w 24 && getBit w 21)) := by
  have hbits : ∀ p u : BitVec 1, (p == 0#1 && u == 1#1) = (!(p != 0#1) && u != 0#1) := by decide
  rw [shiftedOffset, ← getBits_sub w 0 25 4 8 (by decide), ← getBits_sub w 0 25 24 1 (by decide),
    ← getBits_sub w 0 25 21 1 (by decide), hbits]
  rfl

/-! The DataProcessing words, by operand form (R91 to R96) -/

section
variable {w : Word} (hi : getBit w 25 = false) (h6 : getBit w 6 = false)
include hi h6

theorem decodeDataProcessing_of_shiftImm (h4 : getBit w 4 = false) : decodeDataProcessing w = decodeDpShiftImm w := by
  simp [decodeDataProcessing, hi, h6, h4, getBits_eq_reservedBit7]

theorem decodeDataProcessing_of_shiftReg (h7 : getBit w 7 = false) (h4 : getBit w 4 = true) :
    decodeDataProcessing w = decodeDpShiftReg w := by
  simp [decodeDataProcessing, hi, h7, h6, h4, getBits_eq_reservedBit7]

end

section
variable (cond : Cond) (op : BitVec 4) (upd : Bool) (rn rd rs rm : RegNo) (kind : ShiftKind)

theorem decodeDataProcessing_op2Imm (rotate : BitVec 4) (imm8 : BitVec 8) :
    decodeDataProcessing (dpWord cond true op upd rn rd (op2Imm rotate imm8)) =
      decodeDpImm (dpWord cond true op upd rn rd (op2Imm rotate imm8)) :=
  if_pos (by simp [getBit])

theorem decodeDataProcessing_op2ShiftImm (shamt : BitVec 5) :
    decodeDataProcessing (dpWord cond false op upd rn rd (op2ShiftImm shamt kind rm)) =
      decodeDpShiftImm (dpWord cond false op upd rn rd (op2ShiftImm shamt kind rm)) := by
  apply decodeDataProcessing_of_shiftImm <;> simp [getBit, getBits_dpWord_op2, op2ShiftImm_fields]

theorem decodeDataProcessing_op2ShiftReg :
    decodeDataProcessing (dpWord cond false op upd rn rd (op2ShiftReg rs kind rm)) =
      decodeDpShiftReg (dpWord cond false op upd rn rd (op2ShiftReg rs kind rm)) := by
  apply decodeDataProcessing_of_shiftReg <;> simp [getBit, getBits_dpWord_op2, op2ShiftReg_fields]

end

/-- With an undefined opcode and no reserved operand encoding the operand form does not matter (R92, R96). -/
theorem decodeDataProcessing_of_undefined {w : Word} (ho : Pseudocode.undefinedOpcode (getBits w 21 4) = true)
    (hr : Pseudocode.reservedOperand w = false) : decodeDataProcessing w = decodeUndefined w := by
  obtain ⟨hImm, hShiftImm, hShiftReg⟩ : decodeDpImm w = decodeUndefined w ∧ decodeDpShiftImm w = decodeUndefined w ∧
      decodeDpShiftReg w = decodeUndefined w := by
    unfold decodeDpImm decodeDpShiftImm decodeDpShiftReg
    refine ⟨?_, ?_, ?_⟩
    all_goals split
    any_goals rfl
    all_goals
      rw [‹getBits w 21 4 = _›] at ho
      exact absurd ho (by decide)
  simp only [decodeDataProcessing, hImm, hShiftImm, hShiftReg, ite_self]
  cases hi : getBit w 25 with
  | true => rfl
  | false => simp_all [Pseudocode.reservedOperand]

/-- An undefined-opcode word whose bits 20:0 leave it in its row. -/
theorem decodeDataProcessing_undefWord (cond : Cond) (imm : Bool) (op : BitVec 4) (rest : BitVec 21)
    (ho : Pseudocode.undefinedOpcode op = true) (h : undefNotOtherRow imm rest = true) :
    decodeDataProcessing (undefWord cond imm op rest) = decodeUndefined (undefWord cond imm op rest) := by
  have hrow := undefNotOtherRow_getBits (undefWord cond imm op rest)
  refine decodeDataProcessing_of_undefined (by rwa [getBits_undefWord_opcode]) ?_
  simp_all [getBit, getBits_undefWord_rest]

theorem ite_eq_lsr (kind : ShiftKind) : (if kind = .lsr then ShiftKind.lsr else .lsl) = kind := by cases kind <;> rfl

/-- Settles O1: the classifier finds the family, and the family's decoder reads each field of the format back. -/
theorem decodeOfEncode : Obligations.DecodeOfEncode := by
  intro i h
  simp only [decodeWord, classify_encode i h]
  cases i
  case mul | mla => simp [familyOf, encode, decodeMultiply, getCond, getReg, getBit]
  case dpReservedShiftKind => simp [familyOf, decodeDataProcessing, getCond, getBit, getBits_dpReservedShiftKind]
  case dpReservedBit7 cond hi lo =>
    obtain ⟨-, -, -, hmark, -⟩ := getBits_dpReservedBit7 cond hi lo
    obtain ⟨-, h6, -, -⟩ := (getBits_eq_reservedBit7 _).1 hmark
    simp only [familyOf, decodeDataProcessing, h6]
    simp [getCond, getBit, getBits_dpReservedBit7]
  case andImm | eorImm | subImm | addImm | cmpImm | orrImm | movImm | bicImm =>
    simp [familyOf, encode, decodeDataProcessing_op2Imm, decodeDpImm, getCond, getReg, getBit, getBits_dpWord_op2,
      op2Imm_rotate, op2Imm_low]
  case andShiftImm | eorShiftImm | subShiftImm | addShiftImm | cmpShiftImm | orrShiftImm | movShiftImm | bicShiftImm =>
    simp [familyOf, encode, decodeDataProcessing_op2ShiftImm, decodeDpShiftImm, getCond, getReg, getBit, getKind,
      getBits_dpWord_op2, op2ShiftImm_fields, ite_eq_lsr]
  case andShiftReg | eorShiftReg | subShiftReg | addShiftReg | cmpShiftReg | orrShiftReg | movShiftReg | bicShiftReg =>
    simp [familyOf, encode, decodeDataProcessing_op2ShiftReg, decodeDpShiftReg, getCond, getReg, getBit, getKind,
      getBits_dpWord_op2, op2ShiftReg_fields, ite_eq_lsr]
  case undef0011 | undef0101 | undef0110 | undef0111 | undef1000 | undef1001 | undef1011 | undef1111 =>
    refine (decodeDataProcessing_undefWord _ _ _ _ rfl h).trans ?_
    simp [decodeUndefined, getCond, getBit, getBits_undefWord_rest]
  case lsReservedP0W1 => simp [familyOf, decodeLoadStore, getCond, getBit, getBits_lsReservedP0W1]
  case lsReservedShiftedOffset cond rest =>
    obtain ⟨-, -, hrest⟩ := getBits_lsReservedShiftedOffset cond rest
    have hrow : shiftedOffset rest = true := h
    rw [← hrest, shiftedOffset_getBits, Bool.and_eq_true, bne_iff_ne, Bool.not_eq_true'] at hrow
    obtain ⟨hoff, hpw⟩ := hrow
    simp only [familyOf, decodeLoadStore, hpw, hoff]
    simp [getCond, getBit, getBits_lsReservedShiftedOffset]
  case ldrImmOffset | ldrImmPre | ldrImmPost | strImmOffset | strImmPre | strImmPost =>
    simp [familyOf, encode, decodeLoadStore, decodeLsImm, getCond, getReg, getBit, getBits_lsWord_offset]
  case ldrRegOffset | ldrRegPre | ldrRegPost | strRegOffset | strRegPre | strRegPost =>
    simp [familyOf, encode, decodeLoadStore, decodeLsReg, getCond, getReg, getBit, getBits_lsWord_offset,
      offsetReg_fields]
  case b | bl => simp [familyOf, encode, decodeBranch, getCond, getBit]
  case swiHalt | swiDumpRegisters | swiPrintR0 => simp [familyOf, encode, decodeSoftwareInterrupt, getCond]
  case swiOther => simp_all [familyOf, encode, decodeSoftwareInterrupt, getCond, Instr.wellFormed, otherService]
  case unknownSel10 => simp [familyOf, decodeUnknown, getBit, getBits_unknownSel10]
  case unknownSel11 => simp [familyOf, decodeUnknown, getBit, getBits_unknownSel11]

/-! Encode of decode: the fields of a word make up its format again -/

/-- `getBits_append` with the upper field's offset in its own spelling. -/
theorem getBits_append_of_eq {o o' m n : Nat} (w : Word) (h : o' = o + m) :
    getBits w o' n ++ getBits w o m = getBits w o (n + m) := by
  subst h
  exact getBits_append w o m n

/-- `get_bit` as a one-bit field (R82). -/
theorem bit_getBit (w : Word) (n : Nat) : bit (getBit w n) = getBits w n 1 := bit_of_ne_zero _

/-- Bits 27:25 as the selector and bit 25. -/
theorem getBits_25_3 (w : Word) : getBits w 25 3 = getBits w 26 2 ++ bit (getBit w 25) := by
  rw [bit_getBit]
  exact (getBits_append w 25 1 2).symm

section
variable {w : Word}

theorem dpWord_getBits (hs : getBits w 26 2 = 0b00#2) : dpWord (getCond w) (getBit w 25) (getBits w 21 4)
    (getBit w 20) (getReg w 16) (getReg w 12) (getBits w 0 12) = w := by
  simp (disch := decide) only [dpWord, getCond, getReg, bit_getBit, condBits_condOfBits, regBits_regOfBits, ← hs,
    getBits_append_of_eq]
  exact getBits_self w

theorem undefWord_getBits (hs : getBits w 26 2 = 0b00#2) :
    undefWord (getCond w) (getBit w 25) (getBits w 21 4) (getBits w 0 21) = w := by
  simp (disch := decide) only [undefWord, getCond, bit_getBit, condBits_condOfBits, ← hs, getBits_append_of_eq]
  exact getBits_self w

theorem mulWord_getBits (hs : getBits w 26 2 = 0b00#2) (hm : getBits w 4 4 = 0b1001#4) : mulWord (getCond w)
    (getBits w 22 4) (getBit w 21) (getBit w 20) (getReg w 16) (getReg w 12) (getReg w 8) (getReg w 0) = w := by
  simp (disch := decide) only [mulWord, getCond, getReg, bit_getBit, condBits_condOfBits, regBits_regOfBits, ← hs,
    ← hm, getBits_append_of_eq]
  exact getBits_self w

theorem branchWord_getBits (hs : getBits w 26 2 = 0b10#2) (hb : getBit w 25 = true) :
    branchWord (getCond w) (getBit w 24) (getBits w 0 24) = w := by
  have htop : getBits w 25 3 = 0b101#3 := by rw [getBits_25_3, hs, hb]; rfl
  simp (disch := decide) only [branchWord, getCond, bit_getBit, condBits_condOfBits, ← htop, getBits_append_of_eq]
  exact getBits_self w

theorem lsWord_getBits (hs : getBits w 26 2 = 0b01#2) : lsWord (getCond w) (getBit w 25) (getBit w 24) (getBit w 23)
    (getBit w 22) (getBit w 21) (getBit w 20) (getReg w 16) (getReg w 12) (getBits w 0 12) = w := by
  simp (disch := decide) only [lsWord, getCond, getReg, bit_getBit, condBits_condOfBits, regBits_regOfBits, ← hs,
    getBits_append_of_eq]
  exact getBits_self w

theorem swiWord_getBits (hs : getBits w 26 2 = 0b11#2) (hm : getBits w 24 2 = 0b11#2) :
    swiWord (getCond w) (getBits w 0 24) = w := by
  have htop : getBits w 24 4 = 0b1111#4 := by rw [← getBits_append w 24 2 2, hs, hm]; rfl
  simp (disch := decide) only [swiWord, getCond, condBits_condOfBits, ← htop, getBits_append_of_eq]
  exact getBits_self w

theorem op2Imm_getBits (w : Word) : op2Imm (getBits w 8 4) (getBits w 0 8) = getBits w 0 12 := getBits_append w 0 8 4

theorem kindBits_getKind (h6 : getBit w 6 = false) : kindBits (getKind w) = getBits w 5 2 := by
  rw [← getBits_append w 5 1 1, ← bit_getBit, ← bit_getBit, h6, getKind]
  cases getBit w 5 <;> rfl

theorem op2ShiftImm_getBits (h6 : getBit w 6 = false) (h4 : getBit w 4 = false) :
    op2ShiftImm (getBits w 7 5) (getKind w) (getReg w 0) = getBits w 0 12 := by
  have hb4 : getBits w 4 1 = 0b0#1 := by rw [← bit_getBit, h4]; rfl
  simp (disch := decide) only [op2ShiftImm, getReg, regBits_regOfBits, kindBits_getKind h6, ← hb4, getBits_append_of_eq]

theorem op2ShiftReg_getBits (h7 : getBit w 7 = false) (h6 : getBit w 6 = false) (h4 : getBit w 4 = true) :
    op2ShiftReg (getReg w 8) (getKind w) (getReg w 0) = getBits w 0 12 := by
  have hb7 : getBits w 7 1 = 0b0#1 := by rw [← bit_getBit, h7]; rfl
  have hb4 : getBits w 4 1 = 0b1#1 := by rw [← bit_getBit, h4]; rfl
  simp (disch := decide) only [op2ShiftReg, getReg, regBits_regOfBits, kindBits_getKind h6, ← hb7, ← hb4,
    getBits_append_of_eq]

theorem offsetReg_getBits (ho : getBits w 4 8 = 0#8) : offsetReg (getReg w 0) = getBits w 0 12 := by
  simp (disch := decide) only [offsetReg, getReg, regBits_regOfBits, ← ho, getBits_append_of_eq]

end

/-! What the classifier knows of a word -/

/-- The bits the classifier has looked at when it answers a family (R86). -/
def FamilyBits (w : Word) : Family → Prop
  | .dataProcessing => getBits w 26 2 = 0b00#2 ∧ getBits w 4 4 ≠ 0b1001#4
  | .multiply => getBits w 26 2 = 0b00#2 ∧ getBits w 4 4 = 0b1001#4
  | .branch => getBits w 26 2 = 0b10#2 ∧ getBit w 25 = true
  | .loadStore => getBits w 26 2 = 0b01#2
  | .softwareInterrupt => getBits w 26 2 = 0b11#2 ∧ getBits w 24 2 = 0b11#2
  | .unknown => getBits w 26 2 = 0b10#2 ∧ getBit w 25 = false ∨ getBits w 26 2 = 0b11#2 ∧ getBits w 24 2 ≠ 0b11#2

theorem selector_eq_11 : ∀ b : BitVec 2, b ≠ 0b00#2 → b ≠ 0b01#2 → b ≠ 0b10#2 → b = 0b11#2 := by decide

theorem familyBits_classify (w : Word) : FamilyBits w (classify w) := by
  unfold classify
  split
  next hs => split <;> exact ⟨hs, ‹_›⟩
  next hs => exact hs
  next hs =>
    split
    next hb => exact ⟨hs, hb⟩
    next hb => exact .inl ⟨hs, Bool.eq_false_of_not_eq_true hb⟩
  next h00 h01 h10 =>
    have hs := selector_eq_11 _ h00 h01 h10
    split
    next hm => exact ⟨hs, hm⟩
    next hm => exact .inr ⟨hs, hm⟩

/-! Every decoder reads its words -/

/-- `i` is a reading of `w`: it is well-formed and `w` is its word. -/
structure Reads (w : Word) (i : Instr) : Prop where
  wellFormed : i.wellFormed = true
  word : encode i = w

/-- The opcodes with a handler are the other eight (R92). -/
theorem undefinedOpcode_of_unhandled : ∀ op : BitVec 4,
    op ∉ [0b0000#4, 0b0001#4, 0b0010#4, 0b0100#4, 0b1010#4, 0b1100#4, 0b1101#4, 0b1110#4] →
      Pseudocode.undefinedOpcode op = true := by decide

section
variable {w : Word}

theorem reads_decodeMultiply (h : FamilyBits w .multiply) : Reads w (decodeMultiply w) := by
  have hword := mulWord_getBits h.1 h.2
  unfold decodeMultiply
  split
  next ha => exact ⟨rfl, by rwa [ha] at hword⟩
  next ha => exact ⟨rfl, by rwa [Bool.eq_false_of_not_eq_true ha] at hword⟩

section
variable (hs : getBits w 26 2 = 0b00#2) (hm : getBits w 4 4 ≠ 0b1001#4)
include hs hm

theorem reads_decodeUndefined (hr : Pseudocode.reservedOperand w = false)
    (ho : Pseudocode.undefinedOpcode (getBits w 21 4) = true) : Reads w (decodeUndefined w) := by
  have hword := undefWord_getBits hs
  have hwf : undefNotOtherRow (getBit w 25) (getBits w 0 21) = true := by simp [undefNotOtherRow_getBits, hm, hr]
  unfold decodeUndefined
  split
  case h_8 =>
    have h15 : getBits w 21 4 = 0b1111#4 := by simp_all [Pseudocode.undefinedOpcode]
    exact ⟨hwf, by rwa [h15] at hword⟩
  all_goals
    rw [‹getBits w 21 4 = _›] at hword
    exact ⟨hwf, hword⟩

theorem reads_decodeDpImm (hi : getBit w 25 = true) : Reads w (decodeDpImm w) := by
  have hword := dpWord_getBits hs
  rw [← op2Imm_getBits, hi] at hword
  have hwf : immNotMultiply (getBits w 0 8) = true := by rwa [immNotMultiply_getBits, bne_iff_ne]
  have hr : Pseudocode.reservedOperand w = false := by simp [Pseudocode.reservedOperand, hi]
  unfold decodeDpImm
  split
  case h_9 => exact reads_decodeUndefined hs hm hr (undefinedOpcode_of_unhandled _ (by simp_all))
  all_goals
    rw [‹getBits w 21 4 = _›] at hword
    exact ⟨hwf, hword⟩

section
variable (hr : Pseudocode.reservedOperand w = false) (hi : getBit w 25 = false) (h6 : getBit w 6 = false)
include hr hi h6

theorem reads_decodeDpShiftImm (h4 : getBit w 4 = false) : Reads w (decodeDpShiftImm w) := by
  have hword := dpWord_getBits hs
  rw [← op2ShiftImm_getBits h6 h4, hi] at hword
  unfold decodeDpShiftImm
  split
  case h_9 => exact reads_decodeUndefined hs hm hr (undefinedOpcode_of_unhandled _ (by simp_all))
  all_goals
    rw [‹getBits w 21 4 = _›] at hword
    exact ⟨rfl, hword⟩

theorem reads_decodeDpShiftReg (h7 : getBit w 7 = false) (h4 : getBit w 4 = true) : Reads w (decodeDpShiftReg w) := by
  have hword := dpWord_getBits hs
  rw [← op2ShiftReg_getBits h7 h6 h4, hi] at hword
  unfold decodeDpShiftReg
  split
  case h_9 => exact reads_decodeUndefined hs hm hr (undefinedOpcode_of_unhandled _ (by simp_all))
  all_goals
    rw [‹getBits w 21 4 = _›] at hword
    exact ⟨rfl, hword⟩

end

end

/-- With bit 6 clear and bit 4 set, neither the marker nor the reserved pattern leaves bit 7 set (R86, R96 b). -/
theorem getBit_7_of_shiftReg (hm : getBits w 4 4 ≠ 0b1001#4) (hb : getBits w 4 4 ≠ 0b1011#4) (h6 : getBit w 6 = false)
    (h4 : getBit w 4 = true) : getBit w 7 = false := by
  rw [ne_eq, getBits_eq_marker] at hm
  rw [ne_eq, getBits_eq_reservedBit7] at hb
  cases h5 : getBit w 5 <;> simp_all

theorem reads_dpReservedShiftKind (hs : getBits w 26 2 = 0b00#2) (hi : getBit w 25 = false) (h6 : getBit w 6 = true) :
    Reads w (.dpReservedShiftKind (getCond w) (getBits w 7 18) (getBits w 0 6)) := by
  have htop : getBits w 25 3 = 0b000#3 := by rw [getBits_25_3, hs, hi]; rfl
  have hb6 : getBits w 6 1 = 0b1#1 := by rw [← bit_getBit, h6]; rfl
  refine ⟨rfl, ?_⟩
  simp (disch := decide) only [encode, getCond, condBits_condOfBits, ← htop, ← hb6, getBits_append_of_eq]
  exact getBits_self w

theorem reads_dpReservedBit7 (hs : getBits w 26 2 = 0b00#2) (hi : getBit w 25 = false) (hb : getBits w 4 4 = 0b1011#4) :
    Reads w (.dpReservedBit7 (getCond w) (getBits w 8 17) (getBits w 0 4)) := by
  have htop : getBits w 25 3 = 0b000#3 := by rw [getBits_25_3, hs, hi]; rfl
  refine ⟨rfl, ?_⟩
  simp (disch := decide) only [encode, getCond, condBits_condOfBits, ← htop, ← hb, getBits_append_of_eq]
  exact getBits_self w

theorem reads_decodeDataProcessing (h : FamilyBits w .dataProcessing) : Reads w (decodeDataProcessing w) := by
  obtain ⟨hs, hm⟩ := h
  unfold decodeDataProcessing
  split
  next hi => exact reads_decodeDpImm hs hm hi
  next hi =>
    rw [Bool.not_eq_true] at hi
    split
    next h6 => exact reads_dpReservedShiftKind hs hi h6
    next h6 =>
      rw [Bool.not_eq_true] at h6
      split
      next hb => exact reads_dpReservedBit7 hs hi hb
      next hb =>
        have hr : Pseudocode.reservedOperand w = false := by simp [Pseudocode.reservedOperand, h6, hb]
        split
        next h4 => exact reads_decodeDpShiftReg hs hm hr hi h6 (getBit_7_of_shiftReg hm hb h6 h4) h4
        next h4 => exact reads_decodeDpShiftImm hs hm hr hi h6 (Bool.eq_false_of_not_eq_true h4)

theorem reads_decodeBranch (h : FamilyBits w .branch) : Reads w (decodeBranch w) := by
  have hword := branchWord_getBits h.1 h.2
  unfold decodeBranch
  split
  next hl => exact ⟨rfl, by rwa [hl] at hword⟩
  next hl => exact ⟨rfl, by rwa [Bool.eq_false_of_not_eq_true hl] at hword⟩

theorem reads_lsReservedP0W1 (hs : getBits w 26 2 = 0b01#2) (hp : getBit w 24 = false) (hw : getBit w 21 = true) :
    Reads w (.lsReservedP0W1 (getCond w) (getBit w 25) (getBits w 22 2) (getBits w 0 21)) := by
  have h24 : getBits w 24 1 = 0b0#1 := by rw [← bit_getBit, hp]; rfl
  have h21 : getBits w 21 1 = 0b1#1 := by rw [← bit_getBit, hw]; rfl
  refine ⟨rfl, ?_⟩
  simp (disch := decide) only [encode, getCond, condBits_condOfBits, bit_getBit, ← hs, ← h24, ← h21,
    getBits_append_of_eq]
  exact getBits_self w

section
variable (hs : getBits w 26 2 = 0b01#2) (hpw : (!getBit w 24 && getBit w 21) = false)
include hs hpw

theorem reads_decodeLsImm (hi : getBit w 25 = false) : Reads w (decodeLsImm w) := by
  have hword := lsWord_getBits hs
  unfold decodeLsImm
  split <;> exact ⟨rfl, by simp_all [encode]⟩

theorem reads_decodeLsReg (hi : getBit w 25 = true) (ho : getBits w 4 8 = 0#8) : Reads w (decodeLsReg w) := by
  have hword := lsWord_getBits hs
  rw [← offsetReg_getBits ho] at hword
  unfold decodeLsReg
  split <;> exact ⟨rfl, by simp_all [encode]⟩

theorem reads_lsReservedShiftedOffset (hi : getBit w 25 = true) (ho : getBits w 4 8 ≠ 0#8) :
    Reads w (.lsReservedShiftedOffset (getCond w) (getBits w 0 25)) := by
  have htop : getBits w 25 3 = 0b011#3 := by rw [getBits_25_3, hs, hi]; rfl
  refine ⟨(shiftedOffset_getBits w).trans (by simp [ho, hpw]), ?_⟩
  simp (disch := decide) only [encode, getCond, condBits_condOfBits, ← htop, getBits_append_of_eq]
  exact getBits_self w

end

theorem reads_decodeLoadStore (hs : FamilyBits w .loadStore) : Reads w (decodeLoadStore w) := by
  unfold decodeLoadStore
  split
  next hpw =>
    obtain ⟨hp, hw⟩ : getBit w 24 = false ∧ getBit w 21 = true := by simpa using hpw
    exact reads_lsReservedP0W1 hs hp hw
  next hpw =>
    rw [Bool.not_eq_true] at hpw
    split
    next hi => exact reads_decodeLsImm hs hpw (by simpa using hi)
    next hi =>
      have hi : getBit w 25 = true := by simpa using hi
      split
      next ho => exact reads_decodeLsReg hs hpw hi ho
      next ho => exact reads_lsReservedShiftedOffset hs hpw hi ho

theorem reads_decodeSoftwareInterrupt (h : FamilyBits w .softwareInterrupt) : Reads w (decodeSoftwareInterrupt w) := by
  have hword := swiWord_getBits h.1 h.2
  unfold decodeSoftwareInterrupt
  split
  case h_4 h0 h1 h2 => exact ⟨by simpa [Instr.wellFormed, otherService, and_assoc] using ⟨h0, h1, h2⟩, hword⟩
  all_goals
    rw [‹getBits w 0 24 = _›] at hword
    exact ⟨rfl, hword⟩

theorem reads_decodeUnknown (h : FamilyBits w .unknown) : Reads w (decodeUnknown w) := by
  have h26 : getBit w 26 = ((getBits w 26 2).extractLsb' 0 1 != 0#1) :=
    congrArg (· != 0#1) (getBits_sub w 26 2 0 1 (by decide))
  unfold decodeUnknown
  obtain ⟨hs, hb⟩ | ⟨hs, hm⟩ := h
  · have htop : getBits w 25 3 = 0b100#3 := by rw [getBits_25_3, hs, hb]; rfl
    rw [if_neg (by rw [h26, hs]; decide)]
    refine ⟨rfl, ?_⟩
    simp (disch := decide) only [encode, ← htop, getBits_append_of_eq]
    exact getBits_self w
  · rw [if_pos (by rw [h26, hs]; decide)]
    refine ⟨bne_iff_ne.2 hm, ?_⟩
    simp (disch := decide) only [encode, ← hs, getBits_append_of_eq]
    exact getBits_self w

end

/-- The decoder answers a reading of every word (R105). -/
theorem reads_decodeWord (w : Word) : Reads w (decodeWord w) := by
  have h := familyBits_classify w
  unfold decodeWord
  cases hc : classify w <;> rw [hc] at h
  case dataProcessing => exact reads_decodeDataProcessing h
  case multiply => exact reads_decodeMultiply h
  case branch => exact reads_decodeBranch h
  case loadStore => exact reads_decodeLoadStore h
  case softwareInterrupt => exact reads_decodeSoftwareInterrupt h
  case unknown => exact reads_decodeUnknown h

/-- Settles O2: the decoded instruction is a reading of the word. -/
theorem encodeOfDecode : Obligations.EncodeOfDecode := fun w => (reads_decodeWord w).word

/-- Settles O3: a reading is well-formed, and the classifier puts its word into its family. -/
theorem decodedIsWellFormed : Obligations.DecodedIsWellFormed := by
  intro w
  obtain ⟨hwf, hword⟩ := reads_decodeWord w
  exact ⟨hwf, by rw [← classify_encode _ hwf, hword]⟩

/-! The classifier by bits -/

theorem getBits_two (w : Word) (o : Nat) : getBits w o 2 = bit (w.getLsbD (o + 1)) ++ bit (w.getLsbD o) := by
  rw [← getBit_eq_getLsbD, ← getBit_eq_getLsbD, bit_getBit, bit_getBit]
  exact (getBits_append w o 1 1).symm

/-- The classifier as R86 has it, bit by bit. -/
theorem classify_bits (w : Word) : classify w =
    if w.getLsbD 27 = false ∧ w.getLsbD 26 = false then
      if w.getLsbD 7 = true ∧ w.getLsbD 6 = false ∧ w.getLsbD 5 = false ∧ w.getLsbD 4 = true then .multiply
      else .dataProcessing
    else if w.getLsbD 27 = false then .loadStore
    else if w.getLsbD 26 = false then if w.getLsbD 25 = true then .branch else .unknown
    else if w.getLsbD 25 = true ∧ w.getLsbD 24 = true then .softwareInterrupt
    else .unknown := by
  simp only [classify, getBits_two, getBits_eq_marker, getBit_eq_getLsbD]
  cases w.getLsbD 27 with
  | false => cases w.getLsbD 26 <;> rfl
  | true =>
    cases w.getLsbD 26 with
    | false => rfl
    | true => cases w.getLsbD 25 <;> cases w.getLsbD 24 <;> rfl

/-- The Unknown words by their fields (R272). -/
theorem classify_eq_unknown_iff (w : Word) : classify w = .unknown ↔ FamilyBits w .unknown := by
  refine ⟨fun h => h ▸ familyBits_classify w, ?_⟩
  rintro (⟨hs, hb⟩ | ⟨hs, hm⟩)
  · simp [classify, hs, hb]
  · simp [classify, hs, hm]

/-- A word under a mask of `n` adjacent bits has a given value there exactly when the field does (R81). -/
theorem and_mask_eq_iff (w : Word) (o n : Nat) (v : BitVec n) (h : o + n ≤ 32) :
    w &&& (BitVec.allOnes n).setWidth 32 <<< o = v.setWidth 32 <<< o ↔ getBits w o n = v := by
  constructor
  · intro hw
    ext j hj
    have hbit := congrArg (·.getLsbD (o + j)) hw
    simpa [getBits, hj, show o + j < 32 by omega, show j < 32 by omega] using hbit
  · rintro rfl
    ext k hk
    by_cases hj : k - o < n
    · by_cases ho : k < o
      · simp [ho]
      · simp [getBits, hj, ho, show o + (k - o) = k by omega]
        exact (BitVec.getLsbD_eq_getElem hk).symm
    · simp [getBits, hj]

/-- The mask of R272 for the Unknown words of selector 10. -/
theorem and_mask_sel10_iff (w : Word) :
    w &&& 0x0E000000#32 = 0x08000000#32 ↔ getBits w 26 2 = 0b10#2 ∧ getBit w 25 = false := by
  have hfield : w &&& 0x0E000000#32 = 0x08000000#32 ↔ getBits w 25 3 = 0b100#3 :=
    and_mask_eq_iff w 25 3 0b100#3 (by decide)
  rw [hfield, getBits_25_3]
  generalize getBits w 26 2 = sel
  generalize getBit w 25 = b
  revert sel b
  decide

/-- Settles O7: the classifier's bits, its equality on words that agree there, and the masks as fields. -/
theorem classifierFollowsBits : Obligations.ClassifierFollowsBits := by
  refine ⟨classify_bits, fun w w' h => ?_, fun w => ?_⟩
  · simp only [classify_bits, h 4 (by decide), h 5 (by decide), h 6 (by decide), h 7 (by decide), h 24 (by decide),
      h 25 (by decide), h 26 (by decide), h 27 (by decide)]
  · have hsel : w &&& 0x0C000000#32 = 0x0C000000#32 ↔ getBits w 26 2 = 0b11#2 :=
      and_mask_eq_iff w 26 2 0b11#2 (by decide)
    have hsub : w &&& 0x03000000#32 = 0x03000000#32 ↔ getBits w 24 2 = 0b11#2 :=
      and_mask_eq_iff w 24 2 0b11#2 (by decide)
    rw [classify_eq_unknown_iff, and_mask_sel10_iff, hsel, ne_eq, hsub]
    rfl

/-! The reserved words -/

theorem admitted_decodeUndefined (w : Word) : (decodeUndefined w).admitted = true := by
  unfold decodeUndefined
  split <;> rfl

theorem admitted_decodeDataProcessing (w : Word) :
    (decodeDataProcessing w).admitted = !Pseudocode.reservedOperand w := by
  obtain ⟨hImm, hShiftImm, hShiftReg⟩ : (decodeDpImm w).admitted = true ∧ (decodeDpShiftImm w).admitted = true ∧
      (decodeDpShiftReg w).admitted = true := by
    unfold decodeDpImm decodeDpShiftImm decodeDpShiftReg
    refine ⟨?_, ?_, ?_⟩
    all_goals split
    any_goals rfl
    all_goals exact admitted_decodeUndefined w
  simp only [decodeDataProcessing, apply_ite Instr.admitted, hImm, hShiftImm, hShiftReg, ite_self,
    Pseudocode.reservedOperand]
  cases getBit w 25 with
  | true => rfl
  | false =>
    cases getBit w 6 with
    | true => rfl
    | false => by_cases hb : getBits w 4 4 = 0b1011#4 <;> simp [Instr.admitted, hb]

/-- Register fields name different registers exactly when their bits differ. -/
theorem getReg_bne (w : Word) (o p : Nat) : (getReg w o != getReg w p) = !(getBits w p 4 == getBits w o 4) := by
  have hbits : ∀ a b : BitVec 4, (regOfBits a != regOfBits b) = !(b == a) := by decide
  exact hbits _ _

theorem admitted_decodeLsImm {w : Word} (hpw : (!getBit w 24 && getBit w 21) = false) :
    (decodeLsImm w).admitted = !(getBit w 24 == getBit w 21 && getBits w 12 4 == getBits w 16 4) := by
  unfold decodeLsImm
  split <;> simp_all [Instr.admitted, getReg_bne]

theorem admitted_decodeLsReg {w : Word} (hpw : (!getBit w 24 && getBit w 21) = false) :
    (decodeLsReg w).admitted = !(getBit w 24 == getBit w 21 && getBits w 12 4 == getBits w 16 4) := by
  unfold decodeLsReg
  split <;> simp_all [Instr.admitted, getReg_bne]

theorem admitted_decodeLoadStore (w : Word) : (decodeLoadStore w).admitted = !Pseudocode.reservedLoadStore w := by
  unfold decodeLoadStore Pseudocode.reservedLoadStore
  cases hpw : !getBit w 24 && getBit w 21 with
  | true => simp [Instr.admitted]
  | false =>
    cases hi : getBit w 25 with
    | false => simp [admitted_decodeLsImm hpw]
    | true =>
      by_cases ho : getBits w 4 8 = 0#8
      · simp [ho, admitted_decodeLsReg hpw]
      · simp [ho, Instr.admitted]

theorem admitted_decodeMultiply (w : Word) : (decodeMultiply w).admitted = true := by
  unfold decodeMultiply
  split <;> rfl

theorem admitted_decodeBranch (w : Word) : (decodeBranch w).admitted = true := by
  unfold decodeBranch
  split <;> rfl

theorem admitted_decodeSoftwareInterrupt (w : Word) : (decodeSoftwareInterrupt w).admitted = true := by
  unfold decodeSoftwareInterrupt
  split <;> rfl

theorem admitted_decodeUnknown (w : Word) : (decodeUnknown w).admitted = true := by
  unfold decodeUnknown
  split <;> rfl

/-- Settles O8: only the DataProcessing and the LoadStore decoder answer reserved instructions. -/
theorem reservedWordsByBits : Obligations.ReservedWordsByBits := by
  intro w
  unfold decodeWord reservedWord
  cases classify w
  case dataProcessing =>
    change (decodeDataProcessing w).admitted = !(Pseudocode.reservedOperand w || false)
    rw [Bool.or_false, admitted_decodeDataProcessing]
  case multiply => exact admitted_decodeMultiply w
  case branch => exact admitted_decodeBranch w
  case loadStore => exact admitted_decodeLoadStore w
  case softwareInterrupt => exact admitted_decodeSoftwareInterrupt w
  case unknown => exact admitted_decodeUnknown w

/-! The ignored bits -/

/-- Well-formed instructions with the same meaning have words with the same meaning. -/
theorem exec_decodeWord_encode_congr {i j : Instr} {s : State} (hi : i.wellFormed = true) (hj : j.wellFormed = true)
    (h : exec i s = exec j s) : exec (decodeWord (encode i)) s = exec (decodeWord (encode j)) s := by
  rw [decodeOfEncode i hi, decodeOfEncode j hj, h]

theorem exec_lsReservedP0W1 (cond : Cond) (imm : Bool) (hi : BitVec 2) (lo : BitVec 21) (s : State) :
    exec (.lsReservedP0W1 cond imm hi lo) s = .refused .reservedAddressing := rfl

theorem exec_lsReservedShiftedOffset (cond : Cond) (rest : BitVec 25) (s : State) :
    exec (.lsReservedShiftedOffset cond rest) s = .refused .reservedShiftedOffset := rfl

section
variable (s : State) (cond : Cond) (i p u b22 b22' w l : Bool) (rn rd : RegNo) (offset : BitVec 12)

theorem exec_decodeLsImm_lsWord_b22 : exec (decodeLsImm (lsWord cond i p u b22 w l rn rd offset)) s =
    exec (decodeLsImm (lsWord cond i p u b22' w l rn rd offset)) s := by
  simp only [decodeLsImm, getCond, getReg, getBit, getBits_lsWord_cond, getBits_lsWord_pre, getBits_lsWord_up,
    getBits_lsWord_b22, getBits_lsWord_writeback, getBits_lsWord_load, getBits_lsWord_rn, getBits_lsWord_rd,
    getBits_lsWord_offset _ _ _ _ _ _ _ _ _ _ 0 12 (by decide), bit_ne_zero]
  split <;> rfl

theorem exec_decodeLsReg_lsWord_b22 : exec (decodeLsReg (lsWord cond i p u b22 w l rn rd offset)) s =
    exec (decodeLsReg (lsWord cond i p u b22' w l rn rd offset)) s := by
  simp only [decodeLsReg, getCond, getReg, getBit, getBits_lsWord_cond, getBits_lsWord_pre, getBits_lsWord_up,
    getBits_lsWord_b22, getBits_lsWord_writeback, getBits_lsWord_load, getBits_lsWord_rn, getBits_lsWord_rd,
    getBits_lsWord_offset _ _ _ _ _ _ _ _ _ _ 0 4 (by decide), bit_ne_zero]
  split <;> rfl

/-- Bit 22 of a LoadStore word is a field that no meaning reads (R242), or lies in a word that is refused. -/
theorem exec_decodeWord_lsWord_b22 : exec (decodeWord (lsWord cond i p u b22 w l rn rd offset)) s =
    exec (decodeWord (lsWord cond i p u b22' w l rn rd offset)) s := by
  simp only [decodeWord, classify_lsWord, decodeLoadStore, getBit, getBits_lsWord_imm, getBits_lsWord_pre,
    getBits_lsWord_writeback, getBits_lsWord_offset _ _ _ _ _ _ _ _ _ _ 4 8 (by decide), bit_ne_zero,
    apply_ite (exec · s), exec_lsReservedP0W1, exec_lsReservedShiftedOffset]
  rw [exec_decodeLsImm_lsWord_b22 s cond i p u b22 b22', exec_decodeLsReg_lsWord_b22 s cond i p u b22 b22']

end

/-- An Unknown word is skipped, whatever its bits (R270). -/
theorem exec_decodeUnknown (w : Word) (s : State) : exec (decodeUnknown w) s = skip s := by
  unfold decodeUnknown
  split <;> rfl

theorem exec_decodeWord_of_unknown {w : Word} (h : classify w = .unknown) (s : State) :
    exec (decodeWord w) s = skip s := by
  rw [decodeWord, h]
  exact exec_decodeUnknown w s

/-- Settles O9: every word but the LoadStore and Unknown ones is that of an instruction whose meaning does not read the
ignored field. -/
theorem ignoredBitsHaveNoEffect : Obligations.IgnoredBitsHaveNoEffect := by
  intro s cond upd upd' rd rd' rn rn' rs rm kind
  refine ⟨fun _ _ => ⟨exec_decodeWord_encode_congr rfl rfl rfl, exec_decodeWord_encode_congr rfl rfl rfl⟩,
    fun _ _ h => ⟨exec_decodeWord_encode_congr h h rfl, exec_decodeWord_encode_congr h h rfl⟩,
    fun _ => ⟨exec_decodeWord_encode_congr rfl rfl rfl, exec_decodeWord_encode_congr rfl rfl rfl⟩,
    exec_decodeWord_encode_congr rfl rfl rfl, exec_decodeWord_encode_congr rfl rfl rfl,
    fun _ _ _ _ _ _ _ _ => exec_decodeWord_lsWord_b22 .., fun w w' h h' => ?_, fun _ _ _ _ p hp h h' => ?_⟩
  · rw [exec_decodeWord_of_unknown h, exec_decodeWord_of_unknown h']
  · refine exec_decodeWord_encode_congr h h' ?_
    simp only [List.mem_cons, List.not_mem_nil, or_false] at hp
    obtain rfl | rfl | rfl | rfl | rfl | rfl | rfl | rfl := hp <;> rfl

/-! Spelled words, bytes, fields and refusals -/

/-- Settles O4: each word is the word of its instruction, so it decodes to it. -/
theorem spelledWordsDecode : Obligations.SpelledWordsDecode :=
  ⟨decodeOfEncode (.movImm .al false 0 0 0#4 5#8) rfl,
    decodeOfEncode (.addShiftImm .al true 0 0 0#5 .lsl 1) rfl,
    decodeOfEncode (.movShiftReg .al false 0 0 2 .lsr 1) rfl,
    decodeOfEncode (.mla .al 0#4 false 3 1 0 2) rfl,
    decodeOfEncode (.bl .al 1#24) rfl,
    decodeOfEncode (.ldrImmOffset .al false false 1 2 4#12) rfl,
    decodeOfEncode (.strImmPost .al true true 1 0 1#12) rfl,
    decodeOfEncode (.ldrRegOffset .al true false 1 2 15) rfl,
    decodeOfEncode (.swiHalt .al) rfl,
    decodeOfEncode (.undef0011 .al true 0#21) rfl,
    decodeOfEncode (.unknownSel10 0b1110#4 0x0BD8000#25) rfl,
    decodeOfEncode (.dpReservedShiftKind .al 0b110100000000000000#18 1#6) rfl⟩

/-- Settles O5: the four bytes of a word make it up again; a shorter list has no fourth byte. -/
theorem bytesDecodeLittleEndian : Obligations.BytesDecodeLittleEndian := by
  refine ⟨fun w rest => ?_, fun bytes h => ?_⟩
  · exact congrArg (fun v => Except.ok (decodeWord v, rest)) (wordOfBytes_getBits w)
  · match bytes, h with
    | [], _ | [_], _ | [_, _], _ | [_, _, _], _ => rfl
    | _ :: _ :: _ :: _ :: rest, h => exact absurd h (by simp)

/-- Settles O6: an extraction is a shift and a cut in the integers. -/
theorem fieldExtraction : Obligations.FieldExtraction :=
  ⟨fun w o n => by rw [getBits, BitVec.extractLsb'_toNat, Nat.shiftRight_eq_div_pow], getBits_self, getBit_eq_getLsbD⟩

/-- Settles O20: the four rows answer their refusal, the eight forms are stopped by the gate of the base update. -/
theorem reservedEncodingsRefused : Obligations.ReservedEncodingsRefused := by
  intro cond s up b22 r rm imm12
  refine ⟨fun _ _ => rfl, fun _ _ => rfl, fun _ _ _ => exec_lsReservedP0W1 ..,
    fun _ => exec_lsReservedShiftedOffset .., fun i hi => ?_⟩
  simp only [List.mem_cons, List.not_mem_nil, or_false] at hi
  obtain rfl | rfl | rfl | rfl | rfl | rfl | rfl | rfl := hi <;> exact unlessReserved_self _ cond r s _ rfl

end Sys2Proof.Machine
end

section
/-! PROOFS for spec/40_step_and_condition.md: the condition table (R133), the machine and the spec's pseudocode of the
step and its handlers (R130, R170, R210, R220, R230, R260), the failed condition (R132), and the step (R130, R134). -/

namespace Sys2Proof.Machine

open Sys2Proof.Safety

/-! The condition table (R133) -/

/-- Settles O15: one row of the table per condition. -/
theorem conditionTable : Obligations.ConditionTable := by
  intro code f
  unfold condOfBits
  split
  case h_16 => simp_all [conditionPassed]
  all_goals simp [conditionPassed, bne, beq_eq_decide]

/-! What agrees with the pseudocode -/

/-- An instruction that is not admitted is refused, as where the pseudocode says "refuse" (spec/00_scope.md R12). -/
theorem agreesWith_none {i : Instr} (h : i.admitted = false) (s : State) : AgreesWith (exec i s) none := by
  have hnext := (completesExactlyWhenAdmitted i s).not.2 (by simp [h])
  cases ho : exec i s with
  | next t => exact absurd ⟨t, ho⟩ hnext
  | fault r => cases r
  | refused r => exact ⟨r, rfl⟩

section
variable {w : Word} {s : State}

/-- A gated effect and the pseudocode's gate, "if the condition fails, return" (R132). -/
theorem agreesWith_whenPassed {e : State → State} {effect : Option State} (h : effect = some (e s)) :
    AgreesWith (whenPassed (getCond w) s e) (if !Pseudocode.condPassed w s then some s else effect) := by
  subst h
  cases hc : Pseudocode.condPassed w s with
  | false => exact whenPassed_of_failed _ s e hc
  | true => exact whenPassed_of_passed _ s e hc

/-- The warning of an undefined opcode with WARN_GATED true is a gated effect (spec/47_unknown_undefined.md R271). -/
theorem warnUndefined_eq_whenPassed (cond : Cond) (hg : s.params.warnGated = true) :
    warnUndefined cond s = whenPassed cond s fun s => s.emit .undefinedOpcodeWarning := by
  simp [warnUndefined, whenPassed, hg]

/-- With WARN_GATED false the warning is emitted whatever the condition. -/
theorem warnUndefined_of_ungated (cond : Cond) (hg : s.params.warnGated = false) :
    warnUndefined cond s = .next (s.emit .undefinedOpcodeWarning) := by
  simp [warnUndefined, hg]

end

/-! Multiply, Branch and SoftwareInterrupt (spec/43_multiply.md R210, spec/44_branch.md R220,
spec/46_software_interrupt.md R260) -/

theorem exec_decodeMultiply_agrees (w : Word) (s : State) :
    AgreesWith (exec (decodeMultiply w) s) (Pseudocode.execMultiply w s) := by
  unfold decodeMultiply
  split
  next ha => exact agreesWith_whenPassed (if_pos ha)
  next ha => exact agreesWith_whenPassed (if_neg ha)

/-- The displacement of the pseudocode is 4 times the field, that of the model the field shifted by 2. -/
theorem branchTarget_eq (s : State) (imm24 : BitVec 24) :
    branchTarget s imm24 = s.reg 15 + 4#32 + imm24.signExtend 32 * 4#32 := by
  rw [branchTarget, branchDisp, BitVec.shiftLeft_eq_mul_twoPow]
  rfl

theorem exec_decodeBranch_agrees (w : Word) (s : State) :
    AgreesWith (exec (decodeBranch w) s) (Pseudocode.execBranch w s) := by
  simp only [Pseudocode.execBranch, ← branchTarget_eq]
  unfold decodeBranch
  split
  · exact agreesWith_whenPassed rfl
  · exact agreesWith_whenPassed rfl

theorem exec_decodeSoftwareInterrupt_agrees (w : Word) (s : State) :
    AgreesWith (exec (decodeSoftwareInterrupt w) s) (Pseudocode.execSoftwareInterrupt w s) := by
  unfold decodeSoftwareInterrupt
  split
  case h_4 =>
    simp only [Pseudocode.execSoftwareInterrupt]
    exact agreesWith_whenPassed rfl
  all_goals simp only [Pseudocode.execSoftwareInterrupt, ‹getBits w 0 24 = _›]
  · exact agreesWith_whenPassed rfl
  · exact agreesWith_whenPassed (e := fun s => s.emit (.dumpRegisters s.regs)) rfl
  · exact agreesWith_whenPassed (e := fun s => s.emit (.printR0 (s.reg 0))) rfl

/-! DataProcessing (spec/42_data_processing.md R170) -/

/-- The meaning of a DataProcessing word with operand2 `b`, by its opcode (R92): the three operand forms share it. -/
def dpMeaning (w b : Word) (s : State) : Host.Outcome State Fault Refusal :=
  match getBits w 21 4 with
  | 0b0000#4 => whenPassed (getCond w) s (dpWrite aluAnd (getBit w 20) (getReg w 16) (getReg w 12) b)
  | 0b0001#4 => whenPassed (getCond w) s (dpWrite aluEor (getBit w 20) (getReg w 16) (getReg w 12) b)
  | 0b0010#4 => whenPassed (getCond w) s (dpWrite aluSub (getBit w 20) (getReg w 16) (getReg w 12) b)
  | 0b0100#4 => whenPassed (getCond w) s (dpWrite aluAdd (getBit w 20) (getReg w 16) (getReg w 12) b)
  | 0b1010#4 => whenPassed (getCond w) s (dpCompare (getReg w 16) b)
  | 0b1100#4 => whenPassed (getCond w) s (dpWrite aluOrr (getBit w 20) (getReg w 16) (getReg w 12) b)
  | 0b1101#4 => whenPassed (getCond w) s (dpWrite aluMov (getBit w 20) (getReg w 16) (getReg w 12) b)
  | 0b1110#4 => whenPassed (getCond w) s (dpWrite aluBic (getBit w 20) (getReg w 16) (getReg w 12) b)
  | _ => warnUndefined (getCond w) s

section
variable (w : Word) (s : State)

theorem exec_decodeUndefined : exec (decodeUndefined w) s = warnUndefined (getCond w) s := by
  unfold decodeUndefined
  split <;> rfl

theorem dpMeaning_of_undefined {w : Word} (ho : Pseudocode.undefinedOpcode (getBits w 21 4) = true) (b : Word) :
    dpMeaning w b s = warnUndefined (getCond w) s := by
  unfold dpMeaning
  split
  case h_9 => rfl
  all_goals
    rw [‹getBits w 21 4 = _›] at ho
    exact absurd ho (by decide)

/-- Each operand form calls the meaning of its opcode with its own operand. -/
theorem exec_decodeDp : exec (decodeDpImm w) s = dpMeaning w (operandImm (getBits w 8 4) (getBits w 0 8)) s ∧
    exec (decodeDpShiftImm w) s = dpMeaning w (operandShiftImm s (getBits w 7 5) (getKind w) (getReg w 0)) s ∧
    exec (decodeDpShiftReg w) s = dpMeaning w (operandShiftReg s (getReg w 8) (getKind w) (getReg w 0)) s := by
  unfold decodeDpImm decodeDpShiftImm decodeDpShiftReg
  refine ⟨?_, ?_, ?_⟩
  all_goals split
  any_goals
    simp only [dpMeaning, ‹getBits w 21 4 = _›]
    rfl
  all_goals rw [dpMeaning_of_undefined s (undefinedOpcode_of_unhandled _ (by simp_all)), exec_decodeUndefined]

end

/-- The tests of R173 in the order of the pseudocode. -/
theorem shiftByAmount_eq (kind : ShiftKind) (m : Word) (n : Nat) :
    shiftByAmount kind m n = if n = 0 then m else if 32 ≤ n then 0#32 else shift32 kind m n := by
  simp only [shiftByAmount, ← not_lt (a := n), ite_not]

section
variable {w : Word} (hr : Pseudocode.reservedOperand w = false) (s : State)
include hr

/-- The two shift kinds of a word that is not reserved, as the pseudocode tells them apart (R94, R96 a). -/
theorem shift32_getKind (hi : getBit w 25 = false) (m : Word) (n : Nat) :
    shift32 (getKind w) m n = if getBits w 5 2 = 0b00#2 then m <<< n else m >>> n := by
  have h6 : getBit w 6 = false := by simp_all [Pseudocode.reservedOperand]
  rw [← kindBits_getKind h6]
  cases getKind w <;> rfl

/-- Every operand form computes the pseudocode's Operand2 (R171 to R173). -/
theorem exec_decodeDataProcessing :
    exec (decodeDataProcessing w) s = dpMeaning w (Pseudocode.operand2 w s) s := by
  obtain ⟨hImm, hShiftImm, hShiftReg⟩ := exec_decodeDp w s
  unfold decodeDataProcessing Pseudocode.operand2
  cases hi : getBit w 25 with
  | true => exact hImm
  | false =>
    obtain ⟨h6, hb⟩ : getBit w 6 = false ∧ getBits w 4 4 ≠ 0b1011#4 := by simp_all [Pseudocode.reservedOperand]
    cases h4 : getBit w 4 with
    | true => simp [h6, hb, hShiftReg, operandShiftReg, shiftByAmount_eq, shift32_getKind hr hi]
    | false => simp [h6, hb, hShiftImm, operandShiftImm, shift32_getKind hr hi]

end

theorem exec_decodeDataProcessing_agrees {w : Word} (s : State)
    (hg : s.params.warnGated = true ∨ Pseudocode.undefinedOpcode (getBits w 21 4) = false) :
    AgreesWith (exec (decodeDataProcessing w) s) (Pseudocode.execDataProcessing w s) := by
  cases hr : Pseudocode.reservedOperand w with
  | true =>
    have hnone : Pseudocode.execDataProcessing w s = none := by simp [Pseudocode.execDataProcessing, hr]
    rw [hnone]
    exact agreesWith_none (by simp [admitted_decodeDataProcessing, hr]) s
  | false =>
    rw [exec_decodeDataProcessing hr]
    simp only [Pseudocode.execDataProcessing, hr]
    cases ho : Pseudocode.undefinedOpcode (getBits w 21 4) with
    | true =>
      rw [dpMeaning_of_undefined s ho, warnUndefined_eq_whenPassed _ (by simpa [ho] using hg)]
      exact agreesWith_whenPassed rfl
    | false =>
      unfold dpMeaning
      split
      case h_9 =>
        rw [undefinedOpcode_of_unhandled _ (by simp_all)] at ho
        cases ho
      all_goals
        simp only [‹getBits w 21 4 = _›]
        exact agreesWith_whenPassed rfl

/-! LoadStore (spec/45_load_store.md R230) -/

/-- The addressing variant of a LoadStore word, by P and W (R245). -/
def lsMode (w : Word) : AddrMode :=
  if getBit w 24 then if getBit w 21 then .preIndexed else .offset else .postIndexed

/-- The effect of a LoadStore word with offset `off`, by L (R230). -/
def lsEffect (w off : Word) : State → State :=
  if getBit w 20 then loadEffect (lsMode w) (getBit w 23) (getReg w 16) (getReg w 12) off
  else storeEffect (lsMode w) (getBit w 23) (getReg w 16) (getReg w 12) off

/-- The offset of R232, register 15 told by its field. -/
theorem offset_of_reg {w : Word} (hi : getBit w 25 = true) (s : State) :
    Pseudocode.offset w s = offsetOfReg s (getReg w 0) := by
  have hreg : ∀ r : BitVec 4, r = 15#4 ↔ regOfBits r = pcNum := by decide
  simp only [Pseudocode.offset, offsetOfReg, hi, hreg]
  rfl

section
variable (w : Word) (s : State)

/-- Both offset forms call the same gate and effect, with their own offset. -/
theorem exec_decodeLs :
    exec (decodeLsImm w) s = unlessReserved (lsMode w) (getCond w) (getReg w 16) (getReg w 12) s
        (lsEffect w (offsetImm (getBits w 0 12))) ∧
      exec (decodeLsReg w) s = unlessReserved (lsMode w) (getCond w) (getReg w 16) (getReg w 12) s
        (lsEffect w (offsetOfReg s (getReg w 0))) := by
  unfold decodeLsImm decodeLsReg
  refine ⟨?_, ?_⟩
  all_goals
    split
    all_goals
      simp only [lsMode, lsEffect, *]
      rfl

end

/-- The three encodings of R100, told apart. -/
theorem reservedLoadStore_eq_false {w : Word} (hr : Pseudocode.reservedLoadStore w = false) :
    (getBit w 25 = true → getBits w 4 8 = 0#8) ∧ (!getBit w 24 && getBit w 21) = false ∧
      (getBit w 24 == getBit w 21 && getBits w 12 4 == getBits w 16 4) = false := by
  obtain ⟨⟨hoffset, hpw⟩, hbase⟩ := by simpa only [Pseudocode.reservedLoadStore, Bool.or_eq_false_iff] using hr
  exact ⟨fun hi => by simpa [hi] using hoffset, hpw, hbase⟩

/-- A post-indexed form accesses memory at the base, the other two at the applied address. -/
theorem accessAddr_lsMode (w : Word) (s : State) (up : Bool) (rn : RegNo) (off : Word) :
    accessAddr s (lsMode w) up rn off = if getBit w 24 then appliedAddr s up rn off else s.reg rn := by
  unfold lsMode
  cases getBit w 24 with
  | false => rfl
  | true => cases getBit w 21 <;> rfl

section
variable {w : Word} (hpw : (!getBit w 24 && getBit w 21) = false)
include hpw

/-- The variants with P = W are the ones that update the base (R245). -/
theorem updatesBase_lsMode : updatesBase (lsMode w) = (getBit w 24 == getBit w 21) := by
  unfold lsMode
  cases hp : getBit w 24 with
  | false => simpa [hp, updatesBase] using hpw
  | true => cases getBit w 21 <;> rfl

/-- The pseudocode's two base updates, before and after the access, are the one of the variant. -/
theorem updateBase_lsMode (s : State) (rn : RegNo) (v : Word) :
    (if !getBit w 24 && !getBit w 21 then (if getBit w 24 && getBit w 21 then s.setReg rn v else s).setReg rn v
      else if getBit w 24 && getBit w 21 then s.setReg rn v else s) = s.updateBase (lsMode w) rn v := by
  rw [State.updateBase, updatesBase_lsMode hpw]
  cases hp : getBit w 24 <;> cases getBit w 21 <;> rfl

end

section
variable {w : Word} (hr : Pseudocode.reservedLoadStore w = false) (s : State)
include hr

/-- The gate of R241 lets every LoadStore word pass that is not reserved. -/
theorem unlessReserved_lsMode (e : State → State) :
    unlessReserved (lsMode w) (getCond w) (getReg w 16) (getReg w 12) s e = whenPassed (getCond w) s e := by
  obtain ⟨-, hpw, hbase⟩ := reservedLoadStore_eq_false hr
  have hreg : (getReg w 16 == getReg w 12) = (getBits w 12 4 == getBits w 16 4) := by
    simpa [bne] using getReg_bne w 16 12
  simp only [unlessReserved, updatesBase_lsMode hpw, hreg, hbase]
  rfl

/-- The meaning of every LoadStore word that is not reserved. -/
theorem exec_decodeLoadStore :
    exec (decodeLoadStore w) s = whenPassed (getCond w) s (lsEffect w (Pseudocode.offset w s)) := by
  obtain ⟨hImm, hReg⟩ := exec_decodeLs w s
  rw [unlessReserved_lsMode hr] at hImm hReg
  obtain ⟨hoffset, hpw, -⟩ := reservedLoadStore_eq_false hr
  cases hi : getBit w 25 with
  | false => simpa [decodeLoadStore, hpw, hi, Pseudocode.offset, offsetImm] using hImm
  | true => simpa [decodeLoadStore, hpw, hi, hoffset hi, offset_of_reg hi] using hReg

/-- The pseudocode's accesses and writes, in its order, are the effect of the word (R230). -/
theorem execLoadStore_eq : Pseudocode.execLoadStore w s =
    if !Pseudocode.condPassed w s then some s else some (lsEffect w (Pseudocode.offset w s) s) := by
  obtain ⟨-, hpw, -⟩ := reservedLoadStore_eq_false hr
  simp only [Pseudocode.execLoadStore, hr, updateBase_lsMode hpw]
  cases hl : getBit w 20 with
  | true =>
    simp only [lsEffect, hl, reduceIte, loadEffect, accessAddr_lsMode]
    rfl
  | false =>
    simp only [lsEffect, hl, Bool.false_eq_true, reduceIte, storeEffect, accessAddr_lsMode]
    rfl

end

theorem exec_decodeLoadStore_agrees (w : Word) (s : State) :
    AgreesWith (exec (decodeLoadStore w) s) (Pseudocode.execLoadStore w s) := by
  cases hr : Pseudocode.reservedLoadStore w with
  | true =>
    have hnone : Pseudocode.execLoadStore w s = none := by simp [Pseudocode.execLoadStore, hr]
    rw [hnone]
    exact agreesWith_none (by simp [admitted_decodeLoadStore, hr]) s
  | false =>
    rw [exec_decodeLoadStore hr, execLoadStore_eq hr]
    exact agreesWith_whenPassed rfl

/-! The whole machine (R130) and the failed condition (R132) -/

/-- Decoder and meanings compute the dispatch of the pseudocode, wherever the two do not part over the warning of an
undefined opcode (R130, R271). -/
theorem exec_decodeWord_agrees {w : Word} {s : State} (hg : s.params.warnGated = true ∨
    classify w ≠ .dataProcessing ∨ Pseudocode.undefinedOpcode (getBits w 21 4) = false) :
    AgreesWith (exec (decodeWord w) s) (Pseudocode.dispatch w s) := by
  unfold decodeWord Pseudocode.dispatch
  cases hc : classify w
  case dataProcessing => exact exec_decodeDataProcessing_agrees s (by simpa [hc] using hg)
  case multiply => exact exec_decodeMultiply_agrees w s
  case branch => exact exec_decodeBranch_agrees w s
  case loadStore => exact exec_decodeLoadStore_agrees w s
  case softwareInterrupt => exact exec_decodeSoftwareInterrupt_agrees w s
  case unknown => exact exec_decodeUnknown w s

/-- Settles O11: the step dispatches the word it fetches. -/
theorem stepFollowsPseudocode : Obligations.StepFollowsPseudocode := by
  intro s hh hg
  rw [step_of_not_halted hh]
  exact exec_decodeWord_agrees (.inl (by simpa using hg))

/-- The pseudocode returns at once when the condition of a word that is neither Unknown nor reserved fails (R132). -/
theorem dispatch_of_failed {w : Word} {s : State} (hu : classify w ≠ .unknown) (hr : reservedWord w = false)
    (hf : conditionPassed (getCond w) s.flags = false) : Pseudocode.dispatch w s = some s := by
  have hcond : Pseudocode.condPassed w s = false := hf
  unfold Pseudocode.dispatch
  cases hc : classify w
  case dataProcessing =>
    have hop : Pseudocode.reservedOperand w = false := by simpa [reservedWord, hc] using hr
    simp [Pseudocode.execDataProcessing, hop, hcond]
  case loadStore =>
    have hls : Pseudocode.reservedLoadStore w = false := by simpa [reservedWord, hc] using hr
    simp [Pseudocode.execLoadStore, hls, hcond]
  case multiply => simp [Pseudocode.execMultiply, hcond]
  case branch => simp [Pseudocode.execBranch, hcond]
  case softwareInterrupt => simp [Pseudocode.execSoftwareInterrupt, hcond]
  case unknown => exact absurd hc hu

/-- Settles O16: with a failed condition the machine does what the pseudocode does, which is nothing; the two part over
the warning of an undefined opcode only. -/
theorem failedConditionDoesNothing : Obligations.FailedConditionDoesNothing := by
  intro s hh hu hr hf
  rw [step_of_not_halted hh, ← fetch_params s]
  rw [← fetch_flags s] at hf
  split
  next hg =>
    have hagrees := exec_decodeWord_agrees hg
    rwa [dispatch_of_failed hu hr hf] at hagrees
  next hg =>
    obtain ⟨hopen, hdp, ho⟩ : (fetch s).2.params.warnGated = false ∧ classify (fetch s).1 = .dataProcessing ∧
        Pseudocode.undefinedOpcode (getBits (fetch s).1 21 4) = true := by simpa using hg
    have hop : Pseudocode.reservedOperand (fetch s).1 = false := by simpa [reservedWord, hdp] using hr
    rw [decodeWord, hdp]
    change exec (decodeDataProcessing _) _ = _
    rw [exec_decodeDataProcessing hop, dpMeaning_of_undefined _ ho, warnUndefined_of_ungated _ hopen, ← fetch_diag s]
    rfl

/-! The step (R130, R134) -/

/-- Settles O10: the fetch reads the four bytes and changes nothing but register 15. -/
theorem stepRunsDecoded : Obligations.StepRunsDecoded := by
  intro s i b0 b1 b2 b3 hh h0 h1 h2 h3 hd
  obtain rfl : decodeWord (wordOfBytes b0 b1 b2 b3) = i := by
    cases hd
    rfl
  have hfetch : fetch s = (wordOfBytes b0 b1 b2 b3, s.setReg pcNum (s.pc + 4#32)) := by
    rw [fetch, readWord_of_some s s.pc b0 b1 b2 b3 h0 h1 h2 h3]
  rw [step_of_not_halted hh, hfetch]

/-- Settles O12: by induction on the run, whose every step answers the state itself. -/
theorem haltedCoreStays : Obligations.HaltedCoreStays := by
  intro s t hh hrun
  induction hrun with
  | refl => rfl
  | step first _ ih =>
    rw [step, if_pos hh] at first
    cases first
    exact ih hh

end Sys2Proof.Machine
end

section
/-! PROOFS for spec/41_alu.md: what ADD, SUB, MUL, MLA and BIC compute, in the integers or by bits, and the flags
they write. -/

namespace Sys2Proof.Machine

open Sys2Proof.Safety

/-! What a primitive gives: its value and its flags -/

section
variable (a b c : Word) (upd : Bool) (f : Flags)

@[simp] theorem aluAdd_value : (aluAdd a b upd f).value = a + b := rfl
@[simp] theorem aluSub_value : (aluSub a b upd f).value = a - b := rfl
@[simp] theorem aluMul_value : (aluMul a b upd f).value = a * b := rfl
@[simp] theorem aluMla_value : (aluMla a b c upd f).value = a * b + c := rfl

/-- The complement of R155, `0xFFFFFFFF XOR b`, is the bitwise one. -/
@[simp] theorem aluBic_value : (aluBic a b upd f).value = a &&& ~~~b := by
  rw [← BitVec.allOnes_xor]
  rfl

theorem aluAdd_flags : (aluAdd a b upd f).flags = if upd then additionFlags a b else f := rfl
theorem aluSub_flags : (aluSub a b upd f).flags = if upd then subtractionFlags a b else f := rfl

/-- The primitives made from `aluLogical` (R152 to R156, R160, R161) share one flag rule. -/
theorem aluLogical_flags_eq_logicalFlags (r : Word) : (aluLogical r upd f).flags = logicalFlags upd f r := rfl

end

/-! The sign rules of V are signed overflow -/

/-- The sign rule of R157: the operands agree in sign and the sum does not agree with them. -/
theorem additionFlags_v (a b : Word) : (additionFlags a b).v = a.saddOverflow b := by
  rw [BitVec.saddOverflow_eq]
  rfl

/-- The sign rule of R158; the library writes the two ways to overflow, below and above, one by one. -/
theorem subtractionFlags_v (a b : Word) : (subtractionFlags a b).v = a.ssubOverflow b := by
  have hv : (subtractionFlags a b).v = (a.msb != b.msb && (a - b).msb != a.msb) := rfl
  rw [hv, BitVec.ssubOverflow_eq]
  cases a.msb <;> cases b.msb <;> simp

theorem additionFlags_v_iff (a b : Word) :
    (additionFlags a b).v = true ↔ a.toInt + b.toInt < -2 ^ 31 ∨ 2 ^ 31 ≤ a.toInt + b.toInt := by
  simp [additionFlags_v, BitVec.saddOverflow, or_comm]

theorem subtractionFlags_v_iff (a b : Word) :
    (subtractionFlags a b).v = true ↔ a.toInt - b.toInt < -2 ^ 31 ∨ 2 ^ 31 ≤ a.toInt - b.toInt := by
  simp [subtractionFlags_v, BitVec.ssubOverflow, or_comm]

/-- A word less itself needs no borrow and does not overflow (R158). -/
theorem subtractionFlags_self (a : Word) : subtractionFlags a a = ⟨false, true, true, false⟩ := by
  simp [subtractionFlags]

/-! Differences and products modulo 2^32 (R163) -/

theorem toNat_sub_eq_emod (a b : Word) : ((a - b).toNat : Int) = ((a.toNat : Int) - b.toNat) % 2 ^ 32 := by
  rw [BitVec.toNat_sub]
  omega

/-- The unsigned value of a word is its signed value modulo 2^32. -/
theorem toNat_eq_toInt_emod (x : Word) : (x.toNat : Int) = x.toInt % 2 ^ 32 := by
  have hmod : x.toInt % 2 ^ 32 = (x.toNat : Int) % 2 ^ 32 := by
    rw [BitVec.toInt_eq_toNat_bmod]
    exact Int.bmod_emod ..
  have hlt : (x.toNat : Int) < 2 ^ 32 := by exact_mod_cast x.isLt
  rw [hmod, Int.emod_eq_of_lt (Int.natCast_nonneg _) hlt]

/-- Read as signed, the factors have the same product modulo 2^32. -/
theorem toNat_mul_eq_toInt_emod (m x : Word) : ((m * x).toNat : Int) = m.toInt * x.toInt % 2 ^ 32 := by
  rw [toNat_eq_toInt_emod, BitVec.toInt_mul]
  exact Int.bmod_emod ..

/-! The obligations -/

/-- Settles O26: the corner cases of R157 are computed, and V is signed overflow. -/
theorem addPrimitive : Obligations.AddPrimitive := by
  refine ⟨fun a b f => ⟨?_, rfl, aluAdd_flags a b false f, aluAdd_flags a b true f⟩, fun f => ⟨rfl, rfl, rfl⟩,
    additionFlags_v_iff⟩
  rw [aluAdd_value, BitVec.toNat_add]

/-- Settles O27: the corner cases of R158 are computed but for `a - a`, and V is signed overflow. -/
theorem subPrimitive : Obligations.SubPrimitive := by
  refine ⟨fun a b f => ⟨toNat_sub_eq_emod a b, rfl, aluSub_flags a b false f, aluSub_flags a b true f⟩,
    fun a f => ?_, fun f => ⟨rfl, rfl, rfl, rfl, rfl⟩, subtractionFlags_v_iff⟩
  have hflags : (aluSub a a true f).flags = ⟨false, true, true, false⟩ := subtractionFlags_self a
  have hvalue : (aluSub a a true f).value = 0#32 := BitVec.sub_self a
  rw [← hflags, ← hvalue]

/-- Settles O29: the low 32 bits do not depend on how the factors are read. -/
theorem multiplyPrimitives : Obligations.MultiplyPrimitives := by
  intro m x n upd f
  refine ⟨BitVec.toNat_mul m x, aluLogical_flags_eq_logicalFlags upd f (m * x), ?_,
    aluLogical_flags_eq_logicalFlags upd f (m * x + n), toNat_mul_eq_toInt_emod m x⟩
  rw [aluMla_value, BitVec.toNat_add, BitVec.toNat_mul, Nat.mod_add_mod]

/-- Settles O28: each bit of the result is the bit of `a` unless `b` has it too. -/
theorem bicPrimitive : Obligations.BicPrimitive := by
  refine ⟨fun a b upd f => ⟨aluLogical_flags_eq_logicalFlags .., fun k hk => ?_⟩, fun a upd f => ⟨?_, ?_⟩,
    fun f => rfl⟩
  · rw [aluBic_value, BitVec.getLsbD_and, BitVec.getLsbD_not, decide_eq_true hk, Bool.true_and]
  · rw [aluBic_value, BitVec.not_zero, BitVec.and_allOnes]
  · rw [aluBic_value, show 0xFFFFFFFF#32 = BitVec.allOnes 32 from rfl, BitVec.not_allOnes, BitVec.and_zero]

end Sys2Proof.Machine
end

section
/-! PROOFS for spec/42_data_processing.md: operand2 by bits and in the integers (R171 to R173), what the eight
instructions complete with and leave unchanged (R176 to R183), and the handler on raw words (R170). -/

namespace Sys2Proof.Machine

open Sys2Proof.Safety

/-! The handler (R170) -/

/-- Settles O40: a DataProcessing word goes to the family's decoder, whose meanings agree with the pseudocode. -/
theorem dataProcessingHandler : Obligations.DataProcessingHandler := by
  intro w s hw hg
  have hdispatch : Pseudocode.dispatch w s = Pseudocode.execDataProcessing w s := by rw [Pseudocode.dispatch, hw]
  rw [← hdispatch]
  exact exec_decodeWord_agrees (.inl hg)

/-! The rotated immediate (R171) -/

/-- The rotation of spec/00_scope.md R9 is the library's, which takes the amount modulo 32. -/
theorem ror32_eq_rotateRight (v : Word) {n : Nat} (hn : n < 32) : ror32 v n = v.rotateRight n := by
  rw [BitVec.rotateRight, Nat.mod_eq_of_lt hn]
  rfl

theorem getLsbD_ror32 (v : Word) {n k : Nat} (hn : n < 32) (hk : k < 32) :
    (ror32 v n).getLsbD k = v.getLsbD ((k + n) % 32) := by
  rw [ror32_eq_rotateRight v hn, BitVec.getLsbD_rotateRight, Nat.mod_eq_of_lt hn]
  by_cases hwrap : k < 32 - n
  · rw [Nat.mod_eq_of_lt (by omega)]
    simp [hwrap, Nat.add_comm]
  · have hindex : (k + n) % 32 = k - (32 - n) := by omega
    simp [hwrap, hk, hindex]

/-- Settles O21: the amount is at most 30, and the immediate is zero-extended. -/
theorem rotatedImmediateBits : Obligations.RotatedImmediateBits := by
  intro rotate imm8 k hk
  have hamount : 2 * rotate.toNat < 32 := by omega
  have hindex : (k + 2 * rotate.toNat) % 32 < 32 := Nat.mod_lt _ (by decide)
  rw [operandImm, getLsbD_ror32 _ hamount hk, BitVec.getLsbD_setWidth, decide_eq_true hindex, Bool.true_and]

/-! The shifted register in the integers (R172, R173) -/

theorem toNat_shift32_lsl (m : Word) (n : Nat) : (shift32 .lsl m n).toNat = m.toNat * 2 ^ n % 2 ^ 32 := by
  rw [shift32, BitVec.toNat_shiftLeft, Nat.shiftLeft_eq]

theorem toNat_shift32_lsr (m : Word) (n : Nat) : (shift32 .lsr m n).toNat = m.toNat / 2 ^ n := by
  rw [shift32, BitVec.toNat_ushiftRight, Nat.shiftRight_eq_div_pow]

theorem shift32_zero (kind : ShiftKind) (m : Word) : shift32 kind m 0 = m := by
  cases kind with
  | lsl => exact BitVec.shiftLeft_zero m
  | lsr => exact BitVec.ushiftRight_zero m

/-- The pass-through of amount 0 is the shift by 0, so one shift covers all 32 immediate amounts. -/
theorem operandShiftImm_eq_shift32 (s : State) (shamt : BitVec 5) (kind : ShiftKind) (rm : RegNo) :
    operandShiftImm s shamt kind rm = shift32 kind (s.reg rm) shamt.toNat := by
  unfold operandShiftImm
  split
  next hzero => rw [hzero, shift32_zero]
  next => rfl

/-- Settles O22: both kinds are one shift, by 0 too. -/
theorem shiftByImmediateAmount : Obligations.ShiftByImmediateAmount := by
  intro s shamt rm
  simp only [operandShiftImm_eq_shift32]
  refine ⟨toNat_shift32_lsl .., toNat_shift32_lsr .., fun kind hzero => ?_⟩
  rw [hzero]
  exact shift32_zero kind _

theorem toNat_lowByte (w : Word) : (getBits w 0 8).toNat = w.toNat % 256 := by
  obtain ⟨hextract, -, -⟩ := fieldExtraction
  simpa using hextract w 0 8

/-- Settles O23: the amount is the low byte of rs, and the tests of R173 are the cases. -/
theorem shiftByRegisterAmount : Obligations.ShiftByRegisterAmount := by
  intro s rs rm n hn kind
  rw [operandShiftReg, toNat_lowByte, ← hn, shiftByAmount]
  split
  next => rfl
  next =>
    split
    next => cases kind with
      | lsl => exact toNat_shift32_lsl ..
      | lsr => exact toNat_shift32_lsr ..
    next => rfl

/-! What an instruction completes with (R176 to R183) -/

/-- An instruction whose whole effect is a write of the flags and of one register completes with those. -/
theorem completesWith_of_exec {i : Instr} {s : State} {rd : RegNo} {v : Word} {f : Flags}
    (h : exec i s = .next ((s.setFlags f).setReg rd v)) : CompletesWith i s rd v f :=
  ⟨_, h, State.reg_setReg_same .., fun r hr => State.reg_setReg_of_ne _ rd r v hr, rfl, sameBytes_of_mem rfl,
    ⟨rfl, rfl, rfl, rfl⟩⟩

section
variable {cond : Cond} {upd : Bool} {rn rd : RegNo} {s : State} {b : Word}
variable (hc : conditionPassed cond s.flags = true)
include hc

theorem completesWith_dpWrite {i : Instr} {alu : AluOp} (h : exec i s = whenPassed cond s (dpWrite alu upd rn rd b)) :
    CompletesWith i s rd (alu (s.reg rn) b upd s.flags).value (alu (s.reg rn) b upd s.flags).flags :=
  completesWith_of_exec (h.trans (whenPassed_of_passed cond s _ hc))

/-- The five logical instructions with one operand2, whatever its form (R187). -/
theorem logicalInstructions_complete {iAnd iEor iOrr iBic iMov : Instr}
    (hAnd : exec iAnd s = whenPassed cond s (dpWrite aluAnd upd rn rd b))
    (hEor : exec iEor s = whenPassed cond s (dpWrite aluEor upd rn rd b))
    (hOrr : exec iOrr s = whenPassed cond s (dpWrite aluOrr upd rn rd b))
    (hBic : exec iBic s = whenPassed cond s (dpWrite aluBic upd rn rd b))
    (hMov : exec iMov s = whenPassed cond s (dpWrite aluMov upd rn rd b)) :
    CompletesWith iAnd s rd (s.reg rn &&& b) (logicalFlags upd s.flags (s.reg rn &&& b)) ∧
    CompletesWith iEor s rd (s.reg rn ^^^ b) (logicalFlags upd s.flags (s.reg rn ^^^ b)) ∧
    CompletesWith iOrr s rd (s.reg rn ||| b) (logicalFlags upd s.flags (s.reg rn ||| b)) ∧
    CompletesWith iBic s rd (s.reg rn &&& ~~~b) (logicalFlags upd s.flags (s.reg rn &&& ~~~b)) ∧
    CompletesWith iMov s rd b (logicalFlags upd s.flags b) := by
  refine ⟨completesWith_dpWrite hc hAnd, completesWith_dpWrite hc hEor, completesWith_dpWrite hc hOrr, ?_,
    completesWith_dpWrite hc hMov⟩
  rw [← aluBic_value (s.reg rn) b upd s.flags]
  exact completesWith_dpWrite hc hBic

/-- ADD and SUB with one operand2, whatever its form (R187). -/
theorem arithmeticInstructions_complete {iAdd iSub : Instr}
    (hAdd : exec iAdd s = whenPassed cond s (dpWrite aluAdd upd rn rd b))
    (hSub : exec iSub s = whenPassed cond s (dpWrite aluSub upd rn rd b)) :
    CompletesWith iAdd s rd (s.reg rn + b) (if upd then additionFlags (s.reg rn) b else s.flags) ∧
    CompletesWith iSub s rd (s.reg rn - b) (if upd then subtractionFlags (s.reg rn) b else s.flags) :=
  ⟨completesWith_dpWrite hc hAdd, completesWith_dpWrite hc hSub⟩

end

/-- Settles O30: the three operand forms, each with its own operand2. -/
theorem logicalInstructionsComplete : Obligations.LogicalInstructionsComplete := by
  intro cond upd rn rd s hc
  refine ⟨?_, ?_, ?_⟩
  · rintro rotate imm8 _ _ rfl rfl
    exact logicalInstructions_complete hc rfl rfl rfl rfl rfl
  · rintro shamt kind rm _ _ rfl rfl
    exact logicalInstructions_complete hc rfl rfl rfl rfl rfl
  · rintro rs kind rm _ _ rfl rfl
    exact logicalInstructions_complete hc rfl rfl rfl rfl rfl

/-- Settles O31: the three operand forms, each with its own operand2. -/
theorem arithmeticInstructionsComplete : Obligations.ArithmeticInstructionsComplete := by
  intro cond upd rn rd s hc
  refine ⟨?_, ?_, ?_⟩
  · rintro rotate imm8 _ _ rfl rfl
    exact arithmeticInstructions_complete hc rfl rfl
  · rintro shamt kind rm _ _ rfl rfl
    exact arithmeticInstructions_complete hc rfl rfl
  · rintro rs kind rm _ _ rfl rfl
    exact arithmeticInstructions_complete hc rfl rfl

/-- CMP computes the flags of a subtraction that updates (R159). -/
theorem aluCmp_eq_subtractionFlags (a b : Word) : aluCmp a b = subtractionFlags a b := aluSub_flags a b true _

/-- Settles O32: in each form the effect is `dpCompare`, which writes the flags and nothing else. -/
theorem compareCompletes : Obligations.CompareCompletes := by
  intro cond upd rn rd s hc i b hform
  have hexec : exec i s = whenPassed cond s (dpCompare rn b) := by
    obtain ⟨rotate, imm8, rfl, rfl⟩ | ⟨shamt, kind, rm, rfl, rfl⟩ | ⟨rs, kind, rm, rfl, rfl⟩ := hform
    · rfl
    · rfl
    · rfl
  rw [whenPassed_of_passed cond s _ hc] at hexec
  exact ⟨dpCompare rn b s, hexec, aluCmp_eq_subtractionFlags .., fun r => dpCompare_reg .., sameBytes_of_mem rfl,
    ⟨rfl, rfl, rfl, rfl⟩⟩

end Sys2Proof.Machine
end

section
/-! PROOFS for spec/43_multiply.md: what MUL and MLA complete with and leave unchanged (R211, R212), and the handlers
of Multiply, Branch and SoftwareInterrupt on raw words (R210, R220, R260). -/

namespace Sys2Proof.Machine

open Sys2Proof.Safety

/-- Settles O41: a word of each family goes to that family's decoder, whose meanings agree with the pseudocode. -/
theorem multiplyBranchServiceHandlers : Obligations.MultiplyBranchServiceHandlers := by
  intro w s
  refine ⟨fun hw => ?multiply, fun hw => ?branch, fun hw => ?softwareInterrupt⟩
  all_goals rw [decodeWord, hw]
  case multiply => exact exec_decodeMultiply_agrees w s
  case branch => exact exec_decodeBranch_agrees w s
  case softwareInterrupt => exact exec_decodeSoftwareInterrupt_agrees w s

/-- An instruction whose gated effect is `mulWrite` completes with the value and flags it is given (R210). -/
theorem completesWith_mulWrite {i : Instr} {cond : Cond} {rd : RegNo} {r : AluResult} {s : State}
    (hc : conditionPassed cond s.flags = true) (h : exec i s = whenPassed cond s (mulWrite rd r)) :
    CompletesWith i s rd r.value r.flags :=
  completesWith_of_exec (h.trans (whenPassed_of_passed cond s _ hc))

/-- Settles O33: MUL and MLA write what their primitives give (R160, R161) through `mulWrite`. -/
theorem multiplyInstructionsComplete : Obligations.MultiplyInstructionsComplete := by
  rintro cond ign upd rd rn rs rm s hc _ _ rfl rfl
  exact ⟨completesWith_mulWrite (r := aluMul (s.reg rm) (s.reg rs) upd s.flags) hc rfl,
    completesWith_mulWrite (r := aluMla (s.reg rm) (s.reg rs) (s.reg rn) upd s.flags) hc rfl⟩

end Sys2Proof.Machine
end

section
/-! PROOFS for spec/44_branch.md: the branch target in the integers (R220, R223), what B and BL complete with and leave
unchanged (R221, R222), and the complete list of control transfers (R225). -/

namespace Sys2Proof.Machine

open Sys2Proof.Safety

/-! The branch target (R220, R223) -/

/-- The sign-extended field has the value of the field, modulo 2^32. -/
theorem toNat_signExtend_eq_emod (imm24 : BitVec 24) :
    ((imm24.signExtend 32).toNat : Int) = imm24.toInt % 2 ^ 32 := by
  rw [toNat_eq_toInt_emod, BitVec.toInt_signExtend_of_le (by decide)]

theorem branchTarget_toNat_eq_emod (s : State) (imm24 : BitVec 24) :
    ((branchTarget s imm24).toNat : Int) = ((s.pc.toNat : Int) + 4 + 4 * imm24.toInt) % 2 ^ 32 := by
  have hfield := toNat_signExtend_eq_emod imm24
  simp only [branchTarget, branchDisp, BitVec.toNat_add, BitVec.toNat_shiftLeft, Nat.shiftLeft_eq, BitVec.toNat_ofNat]
  omega

/-- Settles O25: 4, 4 times the field and 2^32 are multiples of 4, so the low two bits are those of register 15. -/
theorem branchTargetArithmetic : Obligations.BranchTargetArithmetic := by
  intro s imm24
  have htarget := branchTarget_toNat_eq_emod s imm24
  exact ⟨htarget, by omega⟩

/-! What B and BL complete with (R221, R222) -/

/-- After the linked jump register 15 holds the target, register 14 the old register 15 and every other register what
it held. -/
theorem linkAndJump_reg (imm24 : BitVec 24) (s : State) (q : RegNo) : (linkAndJump imm24 s).reg q =
    if q = pcNum then branchTarget s imm24 else if q = lrNum then s.pc else s.reg q := by
  simp only [linkAndJump, State.reg_setReg]

/-- Settles O34: B writes register 15 only, BL registers 14 and 15. -/
theorem branchInstructionsComplete : Obligations.BranchInstructionsComplete := by
  intro cond imm24 s hc
  refine ⟨completesWith_of_exec (whenPassed_of_passed cond s (jump imm24) hc), linkAndJump imm24 s,
    whenPassed_of_passed cond s _ hc, ?target, ?link, fun r hpc hlr => ?others, rfl, sameBytes_of_mem rfl,
    rfl, rfl, rfl, rfl⟩
  case target => exact linkAndJump_reg imm24 s pcNum
  case link => exact linkAndJump_reg imm24 s lrNum
  case others => exact (linkAndJump_reg imm24 s r).trans ((if_neg hpc).trans (if_neg hlr))

/-! The control transfers (R225): an operation writes register 15 only where its destination or its base is it -/

section
variable {rn rd : RegNo} {s : State}

theorem dpWrite_pc_of_ne (alu : AluOp) (upd : Bool) (b : Word) (h : rd ≠ pcNum) :
    (dpWrite alu upd rn rd b s).pc = s.pc :=
  (dpWrite_reg ..).trans (if_neg h.symm)

theorem mulWrite_pc_of_ne (r : AluResult) (h : rd ≠ pcNum) : (mulWrite rd r s).pc = s.pc :=
  (mulWrite_reg ..).trans (if_neg h.symm)

theorem loadEffect_pc_of_ne (mode : AddrMode) (up : Bool) (off : Word) (hd : rd ≠ pcNum)
    (hn : updatesBase mode = true → rn ≠ pcNum) : (loadEffect mode up rn rd off s).pc = s.pc :=
  (loadEffect_reg ..).trans ((if_neg hd.symm).trans (if_neg fun ⟨hm, he⟩ => hn hm he.symm))

theorem storeEffect_pc_of_ne (mode : AddrMode) (up : Bool) (off : Word)
    (hn : updatesBase mode = true → rn ≠ pcNum) : (storeEffect mode up rn rd off s).pc = s.pc :=
  (storeEffect_reg ..).trans (if_neg fun ⟨hm, he⟩ => hn hm he.symm)

end

section
variable {cond : Cond} {s t : State} {e : State → State}

/-- A gated meaning keeps register 15 if its effect does. -/
theorem pc_of_whenPassed (h : whenPassed cond s e = .next t) (he : (e s).pc = s.pc) : t.pc = s.pc := by
  obtain ⟨_, rfl⟩ | ⟨_, rfl⟩ := whenPassed_cases cond s t e h
  · exact he
  · rfl

theorem pc_of_unlessReserved {mode : AddrMode} {rn rd : RegNo} (h : unlessReserved mode cond rn rd s e = .next t)
    (he : (e s).pc = s.pc) : t.pc = s.pc :=
  pc_of_whenPassed (unlessReserved_cases mode cond rn rd s t e h) he

theorem pc_of_warnUndefined (h : warnUndefined cond s = .next t) : t.pc = s.pc := by
  obtain rfl | rfl := warnUndefined_cases h <;> rfl

end

/-- An instruction that R225 does not list leaves register 15 as the fetch set it. -/
theorem exec_pc_of_not_mayTransferControl {i : Instr} {s t : State} (hi : mayTransferControl i = false)
    (h : exec i s = .next t) : t.pc = s.pc := by
  cases i
  case b | bl => cases hi
  case mul | mla => exact pc_of_whenPassed h (mulWrite_pc_of_ne _ (ne_of_beq_false hi))
  case cmpImm | cmpShiftImm | cmpShiftReg | swiHalt | swiOther => exact pc_of_whenPassed h rfl
  case ldrImmOffset | ldrRegOffset =>
    exact pc_of_whenPassed h (loadEffect_pc_of_ne _ _ _ (ne_of_beq_false hi) nofun)
  case ldrImmPre | ldrImmPost | ldrRegPre | ldrRegPost =>
    obtain ⟨hd, hn⟩ := Bool.or_eq_false_iff.1 hi
    exact pc_of_unlessReserved h (loadEffect_pc_of_ne _ _ _ (ne_of_beq_false hd) fun _ => ne_of_beq_false hn)
  case strImmOffset | strRegOffset => exact pc_of_whenPassed h (storeEffect_pc_of_ne _ _ _ nofun)
  case strImmPre | strImmPost | strRegPre | strRegPost =>
    exact pc_of_unlessReserved h (storeEffect_pc_of_ne _ _ _ fun _ => ne_of_beq_false hi)
  case swiDumpRegisters => exact pc_of_whenPassed (e := fun s => s.emit (.dumpRegisters s.regs)) h rfl
  case swiPrintR0 => exact pc_of_whenPassed (e := fun s => s.emit (.printR0 (s.reg 0))) h rfl
  case undef0011 | undef0101 | undef0110 | undef0111 | undef1000 | undef1001 | undef1011 | undef1111 =>
    exact pc_of_warnUndefined h
  case unknownSel10 | unknownSel11 =>
    cases h
    rfl
  case dpReservedShiftKind | dpReservedBit7 | lsReservedP0W1 | lsReservedShiftedOffset => cases h
  all_goals exact pc_of_whenPassed h (dpWrite_pc_of_ne _ _ _ (ne_of_beq_false hi))

/-- Settles O56: the fetch moves register 15 four bytes on; what is not listed, or has a failing condition, leaves it
there. -/
theorem controlTransfersAreListed : Obligations.ControlTransfersAreListed := by
  intro s t hh h hlisted
  rw [step_of_not_halted hh] at h
  rw [← fetch_pc]
  obtain hi | ⟨_, hc⟩ := hlisted
  · exact exec_pc_of_not_mayTransferControl hi h
  · rw [← fetch_flags s] at hc
    obtain rfl | rfl := exec_decodeWord_of_failed hc h <;> rfl

end Sys2Proof.Machine
end

section
/-! PROOFS for spec/45_load_store.md: the offsets in the integers (R231, R232), what the six forms of LDR and of STR
complete with and leave unchanged (R234 to R240), and the handler on raw words (R230). -/

namespace Sys2Proof.Machine

open Sys2Proof.Safety

/-! The handler (R230) -/

/-- Settles O42: a LoadStore word goes to the family's decoder, whose meanings agree with the pseudocode. -/
theorem loadStoreHandler : Obligations.LoadStoreHandler := by
  intro w s hw
  rw [decodeWord, hw]
  exact exec_decodeLoadStore_agrees w s

/-! The offsets (R231, R232) -/

theorem offsetImm_toNat (imm12 : BitVec 12) : (offsetImm imm12).toNat = imm12.toNat :=
  BitVec.toNat_setWidth_of_le (by decide)

/-- Settles O24: the immediate is zero-extended, and the 8 is added in 32 bits. -/
theorem loadStoreOffsets : Obligations.LoadStoreOffsets := by
  refine ⟨fun imm12 => ⟨offsetImm_toNat imm12, ?bound⟩, fun s rm => ?register⟩
  case bound =>
    rw [offsetImm_toNat]
    exact Nat.le_of_lt_succ imm12.isLt
  case register =>
    unfold offsetOfReg
    split
    · exact BitVec.toNat_add ..
    · rfl

/-! The effect of a load, register by register and field by field -/

section
variable {mode : AddrMode} {up : Bool} {rn rd q : RegNo} {off : Word} {s : State}

/-- The loaded value goes to rd last, so it is there even where rd is the base (R230, R238). -/
theorem loadEffect_reg_rd :
    (loadEffect mode up rn rd off s).reg rd = loadedValue rd (readWord s (accessAddr s mode up rn off)).1 :=
  State.reg_setReg_same ..

/-- A base that is not rd holds the applied address after a variant that updates it (R235, R236). -/
theorem loadEffect_reg_base (hm : updatesBase mode = true) (hd : rn ≠ rd) :
    (loadEffect mode up rn rd off s).reg rn = appliedAddr s up rn off :=
  (loadEffect_reg ..).trans ((if_neg hd).trans (if_pos ⟨hm, rfl⟩))

/-- A load keeps every register but rd and an updated base. -/
theorem loadEffect_reg_of_ne (hd : q ≠ rd) (hn : updatesBase mode = true → q ≠ rn) :
    (loadEffect mode up rn rd off s).reg q = s.reg q :=
  (loadEffect_reg ..).trans ((if_neg hd).trans (if_neg fun ⟨hm, he⟩ => hn hm he))

/-- A load changes nothing but registers and the count of the draws it makes (spec/20_memory.md R51, R52). -/
theorem loadEffect_frame : (loadEffect mode up rn rd off s).flags = s.flags ∧
    SameBytes s (loadEffect mode up rn rd off s) ∧ (loadEffect mode up rn rd off s).halted = s.halted ∧
    (loadEffect mode up rn rd off s).diag = s.diag ∧
    (loadEffect mode up rn rd off s).draws = (readWord s (accessAddr s mode up rn off)).2.draws ∧
    (loadEffect mode up rn rd off s).params = s.params :=
  ⟨loadEffect_flags .., sameBytes_of_mem (loadEffect_mem ..), loadEffect_halted .., loadEffect_diag ..,
    loadEffect_draws .., loadEffect_params ..⟩

/-! The effect of a store -/

/-- A store writes the low byte of rd at the address of the access and no other byte (R239). -/
theorem storeEffect_oneByteStored : OneByteStored s (storeEffect mode up rn rd off s)
    (accessAddr s mode up rn off) ((s.reg rd).setWidth 8) := by
  apply oneByteStored_of_mem
  rw [storeEffect_mem, getBits_zero_eq_setWidth]

/-- The base holds the applied address after a variant that updates it (R235, R236). -/
theorem storeEffect_reg_base (hm : updatesBase mode = true) :
    (storeEffect mode up rn rd off s).reg rn = appliedAddr s up rn off :=
  (storeEffect_reg ..).trans (if_pos ⟨hm, rfl⟩)

/-- A store keeps every register but an updated base. -/
theorem storeEffect_reg_of_ne (hn : updatesBase mode = true → q ≠ rn) :
    (storeEffect mode up rn rd off s).reg q = s.reg q :=
  (storeEffect_reg ..).trans (if_neg fun ⟨hm, he⟩ => hn hm he)

theorem storeEffect_sameControl : SameControl s (storeEffect mode up rn rd off s) :=
  ⟨storeEffect_halted .., storeEffect_diag .., storeEffect_draws .., storeEffect_params ..⟩

end

/-! What LDR and STR complete with -/

/-- Settles O35: in both forms the effect is the load of the offset variant, which has no base update (R234). -/
theorem loadOffsetCompletes : Obligations.LoadOffsetCompletes := by
  rintro cond up b22 rn rd s hc i offset _ hform rfl
  have hexec : exec i s = whenPassed cond s (loadEffect .offset up rn rd offset) := by
    obtain ⟨imm12, rfl, rfl⟩ | ⟨rm, rfl, rfl⟩ := hform
    · rfl
    · rfl
  rw [whenPassed_of_passed cond s _ hc] at hexec
  exact ⟨_, hexec, loadEffect_reg_rd, fun r hr => loadEffect_reg_of_ne hr nofun, loadEffect_frame⟩

/-- Settles O36: each of the four forms is the load of a variant that updates the base (R235, R236). -/
theorem loadBaseUpdateCompletes : Obligations.LoadBaseUpdateCompletes := by
  rintro cond up b22 rn rd s hc hne i offset _ addr rfl hform
  obtain ⟨mode, hm, rfl, hexec⟩ : ∃ mode, updatesBase mode = true ∧ addr = accessAddr s mode up rn offset ∧
      exec i s = unlessReserved mode cond rn rd s (loadEffect mode up rn rd offset) := by
    obtain ⟨imm12, rfl, rfl, rfl⟩ | ⟨rm, rfl, rfl, rfl⟩ | ⟨imm12, rfl, rfl, rfl⟩ | ⟨rm, rfl, rfl, rfl⟩ := hform
    · exact ⟨.preIndexed, rfl, rfl, rfl⟩
    · exact ⟨.preIndexed, rfl, rfl, rfl⟩
    · exact ⟨.postIndexed, rfl, rfl, rfl⟩
    · exact ⟨.postIndexed, rfl, rfl, rfl⟩
  rw [unlessReserved_of_ne mode cond rn rd s _ hne.symm, whenPassed_of_passed cond s _ hc] at hexec
  exact ⟨_, hexec, loadEffect_reg_rd, loadEffect_reg_base hm hne.symm,
    fun r hrd hrn => loadEffect_reg_of_ne hrd fun _ => hrn, loadEffect_frame⟩

/-- Settles O37: in both forms the effect is the store of the offset variant, which has no base update (R234). -/
theorem storeOffsetCompletes : Obligations.StoreOffsetCompletes := by
  rintro cond up b22 rn rd s hc i offset _ hform rfl
  have hexec : exec i s = whenPassed cond s (storeEffect .offset up rn rd offset) := by
    obtain ⟨imm12, rfl, rfl⟩ | ⟨rm, rfl, rfl⟩ := hform
    · rfl
    · rfl
  rw [whenPassed_of_passed cond s _ hc] at hexec
  exact ⟨_, hexec, storeEffect_oneByteStored, fun r => storeEffect_reg_of_ne nofun,
    storeEffect_flags .., storeEffect_sameControl⟩

/-- Settles O38: each of the four forms is the store of a variant that updates the base (R235, R236). -/
theorem storeBaseUpdateCompletes : Obligations.StoreBaseUpdateCompletes := by
  rintro cond up b22 rn rd s hc hne i offset _ addr rfl hform
  obtain ⟨mode, hm, rfl, hexec⟩ : ∃ mode, updatesBase mode = true ∧ addr = accessAddr s mode up rn offset ∧
      exec i s = unlessReserved mode cond rn rd s (storeEffect mode up rn rd offset) := by
    obtain ⟨imm12, rfl, rfl, rfl⟩ | ⟨rm, rfl, rfl, rfl⟩ | ⟨imm12, rfl, rfl, rfl⟩ | ⟨rm, rfl, rfl, rfl⟩ := hform
    · exact ⟨.preIndexed, rfl, rfl, rfl⟩
    · exact ⟨.preIndexed, rfl, rfl, rfl⟩
    · exact ⟨.postIndexed, rfl, rfl, rfl⟩
    · exact ⟨.postIndexed, rfl, rfl, rfl⟩
  rw [unlessReserved_of_ne mode cond rn rd s _ hne.symm, whenPassed_of_passed cond s _ hc] at hexec
  exact ⟨_, hexec, storeEffect_oneByteStored, storeEffect_reg_base hm,
    fun r hrn => storeEffect_reg_of_ne fun _ => hrn, storeEffect_flags .., storeEffect_sameControl⟩

end Sys2Proof.Machine
end

section
/-! PROOFS for spec/46_software_interrupt.md: what each service completes with (R261 to R264), service 0 as the only way
a run ends (R261), and the diagnostic stream as an output only (R266, spec/00_scope.md R6). -/

namespace Sys2Proof.Machine

open Sys2Proof.Safety

/-! The services (R261 to R264) -/

/-- Settles O39: with a passing condition each service is its effect. -/
theorem softwareInterruptsComplete : Obligations.SoftwareInterruptsComplete := by
  intro cond service s hc
  exact ⟨whenPassed_of_passed cond s State.halt hc,
    whenPassed_of_passed cond s (fun s => s.emit (.dumpRegisters s.regs)) hc,
    whenPassed_of_passed cond s (fun s => s.emit (.printR0 (s.reg 0))) hc,
    whenPassed_of_passed cond s id hc⟩

/-! Which words are service 0 -/

/-- The mask of service 0 leaves out the condition: it is the family's two fields and the service field (R101). -/
theorem and_mask_swiHalt_iff (w : Word) :
    w &&& 0x0FFFFFFF#32 = 0x0F000000#32 ↔ FamilyBits w .softwareInterrupt ∧ getBits w 0 24 = 0#24 := by
  have hfield : w &&& 0x0FFFFFFF#32 = 0x0F000000#32 ↔ getBits w 0 28 = 0x0F000000#28 :=
    and_mask_eq_iff w 0 28 0x0F000000#28 (by decide)
  rw [hfield]
  constructor
  · intro h
    have hpart (o n : Nat) (hon : o + n ≤ 28) : getBits w o n = (0x0F000000#28).extractLsb' o n := by
      rw [← h, ← getBits_sub w 0 28 o n hon, Nat.zero_add]
    exact ⟨⟨hpart 26 2 (by decide), hpart 24 2 (by decide)⟩, hpart 0 24 (by decide)⟩
  · rintro ⟨⟨hs, hm⟩, h0⟩
    rw [← getBits_append w 0 24 4, ← getBits_append w 24 2 2, hs, hm, h0]
    rfl

/-- The words of service 0 are those the decoder reads as SWI_HALT (R101, R261). -/
theorem decodeWord_eq_swiHalt_iff (w : Word) :
    (∃ cond, decodeWord w = .swiHalt cond) ↔ w &&& 0x0FFFFFFF#32 = 0x0F000000#32 := by
  rw [and_mask_swiHalt_iff]
  constructor
  · rintro ⟨cond, h⟩
    obtain rfl : w = swiWord cond 0#24 := (encodeOfDecode w).symm.trans (congrArg encode h)
    exact ⟨⟨getBits_swiWord_sel .., getBits_swiWord_mark ..⟩, getBits_swiWord_service ..⟩
  · rintro ⟨⟨hs, hm⟩, h0⟩
    have hw : w = swiWord (getCond w) 0#24 := by rw [← h0, swiWord_getBits hs hm]
    exact ⟨getCond w, (congrArg decodeWord hw).trans (decodeOfEncode (.swiHalt (getCond w)) rfl)⟩

/-! The latch: every other instruction keeps it -/

/-- A gated meaning keeps the latch if its effect does. -/
theorem halted_of_whenPassed {cond : Cond} {s t : State} {e : State → State} (h : whenPassed cond s e = .next t)
    (he : (e s).halted = s.halted) : t.halted = s.halted := by
  obtain ⟨_, rfl⟩ | ⟨_, rfl⟩ := whenPassed_cases cond s t e h
  · exact he
  · rfl

theorem exec_halted_of_ne_swiHalt {i : Instr} {s t : State} (hi : ∀ cond, i ≠ .swiHalt cond)
    (h : exec i s = .next t) : t.halted = s.halted := by
  cases i
  case swiHalt cond => exact absurd rfl (hi cond)
  case ldrImmOffset | ldrRegOffset => exact halted_of_whenPassed h (loadEffect_halted ..)
  case ldrImmPre | ldrImmPost | ldrRegPre | ldrRegPost =>
    exact halted_of_whenPassed (unlessReserved_cases _ _ _ _ _ _ _ h) (loadEffect_halted ..)
  case strImmPre | strImmPost | strRegPre | strRegPost =>
    exact halted_of_whenPassed (unlessReserved_cases _ _ _ _ _ _ _ h) (storeEffect_halted ..)
  case swiDumpRegisters => exact halted_of_whenPassed (e := fun s => s.emit (.dumpRegisters s.regs)) h rfl
  case swiPrintR0 => exact halted_of_whenPassed (e := fun s => s.emit (.printR0 (s.reg 0))) h rfl
  case undef0011 | undef0101 | undef0110 | undef0111 | undef1000 | undef1001 | undef1011 | undef1111 =>
    obtain rfl | rfl := warnUndefined_cases h <;> rfl
  case unknownSel10 | unknownSel11 =>
    cases h
    rfl
  case dpReservedShiftKind | dpReservedBit7 | lsReservedP0W1 | lsReservedShiftedOffset => cases h
  all_goals exact halted_of_whenPassed h rfl

/-- From an open latch SWI 0 closes it exactly when its condition passes (R261, R265). -/
theorem exec_swiHalt_halted_iff {cond : Cond} {s t : State} (hs : s.halted = false)
    (h : exec (.swiHalt cond) s = .next t) : t.halted = true ↔ conditionPassed cond s.flags = true := by
  obtain ⟨hc, rfl⟩ | ⟨hc, rfl⟩ := whenPassed_cases cond s t State.halt h
  · exact iff_of_true rfl hc
  · exact iff_of_false (by simp [hs]) (by simp [hc])

/-- Settles O54: a word of service 0 is decoded to SWI_HALT, every other word to an instruction that keeps the latch. -/
theorem onlyServiceZeroHalts : Obligations.OnlyServiceZeroHalts := by
  intro s t hh h
  rw [step_of_not_halted hh] at h
  have hopen : (fetch s).2.halted = false := (fetch_halted s).trans hh
  rw [← decodeWord_eq_swiHalt_iff, ← fetch_flags s]
  by_cases hi : ∃ cond, decodeWord (fetch s).1 = .swiHalt cond
  · obtain ⟨cond, hcond⟩ := hi
    obtain rfl : cond = getCond (fetch s).1 := cond_eq_getCond (by rw [hcond]; rfl)
    rw [hcond] at h
    rw [exec_swiHalt_halted_iff hopen h, hcond]
    exact (and_iff_right ⟨_, rfl⟩).symm
  · have hkept := exec_halted_of_ne_swiHalt (fun cond hc => hi ⟨cond, hc⟩) h
    exact iff_of_false (by rw [hkept, hopen]; exact Bool.false_ne_true) fun ⟨h0, _⟩ => hi h0

/-! The diagnostic stream: nothing reads it (R266) -/

@[simp] theorem withDiag_pc (s : State) (d : List DiagRecord) : (withDiag s d).pc = s.pc := rfl

/-- On `s`, `f` appends at most one event, the same whatever was emitted before, and does nothing else with the
stream. -/
def AppendsAtMostOne (f : State → State) (s : State) : Prop :=
  ∃ e : List DiagRecord, e.length ≤ 1 ∧ ∀ d, f (withDiag s d) = withDiag (f s) (d ++ e)

/-- The same of a meaning, wherever it answers a next state. -/
def OutcomeAppends (f : State → Host.Outcome State Fault Refusal) (s : State) : Prop :=
  ∃ e : List DiagRecord, e.length ≤ 1 ∧ ∀ t d, f s = .next t → f (withDiag s d) = .next (withDiag t (d ++ e))

section
variable {s : State}

theorem AppendsAtMostOne.silent {f : State → State} (h : ∀ d, f (withDiag s d) = withDiag (f s) d) :
    AppendsAtMostOne f s :=
  ⟨[], Nat.zero_le 1, fun d => by rw [List.append_nil, h]⟩

theorem AppendsAtMostOne.emit {ev : State → DiagEvent} (h : ∀ d, ev (withDiag s d) = ev s) :
    AppendsAtMostOne (fun s => s.emit (ev s)) s := by
  refine ⟨[⟨ev s, s.regs⟩], Nat.le_refl 1, fun d => ?_⟩
  simp only [h]
  rfl

/-- A test that does not read the stream, in front of an effect. -/
theorem AppendsAtMostOne.ite {p : State → Bool} {f : State → State} (hp : ∀ d, p (withDiag s d) = p s)
    (hf : AppendsAtMostOne f s) : AppendsAtMostOne (fun s => if p s then f s else s) s := by
  cases hc : p s with
  | true => simpa only [AppendsAtMostOne, hp, hc, if_true] using hf
  | false => exact .silent fun d => by simp only [hp, hc, Bool.false_eq_true, if_false]

theorem OutcomeAppends.next {f : State → State} (h : AppendsAtMostOne f s) :
    OutcomeAppends (fun s => .next (f s)) s := by
  obtain ⟨e, hlen, hf⟩ := h
  refine ⟨e, hlen, fun t d ht => ?_⟩
  cases ht
  exact congrArg _ (hf d)

theorem OutcomeAppends.refused (r : Refusal) : OutcomeAppends (fun _ => .refused r) s := ⟨[], Nat.zero_le 1, nofun⟩

variable {cond : Cond} {e : State → State → State}

/-- No condition reads the stream. The effect may use operands read from the state, so it depends on it twice. -/
theorem OutcomeAppends.of_whenPassed (h : AppendsAtMostOne (fun s => e s s) s) :
    OutcomeAppends (fun s => whenPassed cond s (e s)) s :=
  .next (.ite (p := fun s => conditionPassed cond s.flags) (fun _ => rfl) h)

theorem OutcomeAppends.of_unlessReserved {mode : AddrMode} {rn rd : RegNo}
    (h : AppendsAtMostOne (fun s => e s s) s) :
    OutcomeAppends (fun s => unlessReserved mode cond rn rd s (e s)) s := by
  unfold unlessReserved
  split
  · exact .refused _
  · exact .of_whenPassed h

theorem OutcomeAppends.of_warnUndefined : OutcomeAppends (warnUndefined cond) s :=
  .next (.ite (p := fun s => conditionPassed cond s.flags || !s.params.warnGated) (fun _ => rfl)
    (.emit fun _ => rfl))

end

/-- A byte read does not read the stream. -/
theorem readByte_withDiag (s : State) (d : List DiagRecord) (a : Word) :
    readByte (withDiag s d) a = ((readByte s a).1, withDiag (readByte s a).2 d) := by
  cases hl : memLookup s.mem a.toNat with
  | some b => rw [readByte_of_some s a b hl, readByte_of_some (withDiag s d) a b hl]
  | none =>
    cases hm : s.params.fillMode with
    | deterministic =>
      rw [readByte_of_none_deterministic s a hl hm, readByte_of_none_deterministic (withDiag s d) a hl hm]
    | random =>
      rw [readByte_of_none_random s a hl hm, readByte_of_none_random (withDiag s d) a hl hm]
      rfl

theorem readWord_withDiag (s : State) (d : List DiagRecord) (a : Word) :
    readWord (withDiag s d) a = ((readWord s a).1, withDiag (readWord s a).2 d) := by
  simp only [readWord, readByte_withDiag]

theorem fetch_withDiag (s : State) (d : List DiagRecord) :
    fetch (withDiag s d) = ((fetch s).1, withDiag (fetch s).2 d) := by
  simp only [fetch, withDiag_pc, readWord_withDiag]
  rfl

theorem loadEffect_withDiag (mode : AddrMode) (up : Bool) (rn rd : RegNo) (off : Word) (s : State)
    (d : List DiagRecord) :
    loadEffect mode up rn rd off (withDiag s d) = withDiag (loadEffect mode up rn rd off s) d := by
  have ha : accessAddr (withDiag s d) mode up rn off = accessAddr s mode up rn off := rfl
  simp only [loadEffect, ha, readWord_withDiag]
  cases mode <;> rfl

/-- Operands, addresses and gates are made of the other fields; only services 1 and 2 and the warning emit. -/
theorem exec_outcomeAppends (i : Instr) (s : State) : OutcomeAppends (exec i) s := by
  cases i
  case dpReservedShiftKind | dpReservedBit7 | lsReservedP0W1 | lsReservedShiftedOffset => exact .refused _
  case undef0011 | undef0101 | undef0110 | undef0111 | undef1000 | undef1001 | undef1011 | undef1111 =>
    exact .of_warnUndefined
  case unknownSel10 | unknownSel11 => exact .next (.silent fun _ => rfl)
  case swiDumpRegisters => exact .of_whenPassed (e := fun _ s => s.emit (.dumpRegisters s.regs)) (.emit fun _ => rfl)
  case swiPrintR0 => exact .of_whenPassed (e := fun _ s => s.emit (.printR0 (s.reg 0))) (.emit fun _ => rfl)
  case ldrImmOffset | ldrRegOffset => exact .of_whenPassed (.silent fun d => loadEffect_withDiag ..)
  case ldrImmPre | ldrImmPost | ldrRegPre | ldrRegPost =>
    exact .of_unlessReserved (.silent fun d => loadEffect_withDiag ..)
  case strImmPre | strImmPost | strRegPre | strRegPost => exact .of_unlessReserved (.silent fun _ => rfl)
  all_goals exact .of_whenPassed (.silent fun _ => rfl)

/-- A halted core appends nothing, any other what the instruction it fetches appends. -/
theorem step_outcomeAppends (s : State) : OutcomeAppends step s := by
  cases hh : s.halted with
  | true =>
    have hstay (d : List DiagRecord) : step (withDiag s d) = .next (withDiag s d) := if_pos hh
    refine ⟨[], Nat.zero_le 1, fun t d ht => ?_⟩
    obtain rfl : s = t := Host.Outcome.next.inj ((hstay s.diag).symm.trans ht)
    rw [hstay, List.append_nil]
  | false =>
    obtain ⟨e, hlen, he⟩ := exec_outcomeAppends (decodeWord (fetch s).1) (fetch s).2
    refine ⟨e, hlen, fun t d ht => ?_⟩
    rw [step_of_not_halted hh] at ht
    rw [step_of_not_halted (s := withDiag s d) hh, fetch_withDiag]
    exact he t d ht

/-- Settles O58: taken at the stream `s` itself has, the blindness of the step says what `t.diag` is. -/
theorem diagIsOutputOnly : Obligations.DiagIsOutputOnly := by
  intro s t h
  obtain ⟨e, hlen, he⟩ := step_outcomeAppends s
  have hself : step s = .next (withDiag t (s.diag ++ e)) := he t s.diag h
  have ht : t = withDiag t (s.diag ++ e) := Host.Outcome.next.inj (h.symm.trans hself)
  exact ⟨e, hlen, congrArg State.diag ht, fun d => he t d h⟩

end Sys2Proof.Machine
end

section
/-! PROOFS for spec/47_unknown_undefined.md: Unknown words are skipped (R270), and the eight undefined opcodes complete
with their warning or with nothing (R271). -/

namespace Sys2Proof.Machine

open Sys2Proof.Safety

/-! Unknown words (R270) -/

/-- Settles O17: the decoder gives an Unknown word to one of the two Unknown instructions, and both are a skip. -/
theorem unknownWordsSkipped : Obligations.UnknownWordsSkipped := by
  refine ⟨fun s hh hu => ?_, fun s top sub rest rest' => ⟨rfl, rfl⟩⟩
  rw [step_of_not_halted hh, exec_decodeWord_of_unknown hu]
  rfl

/-! Undefined opcodes (R271) -/

section
variable {cond : Cond} {s : State}

/-- The warning is emitted when the condition passes or the warning is not gated. -/
theorem warnUndefined_of_warned (h : conditionPassed cond s.flags = true ∨ s.params.warnGated = false) :
    warnUndefined cond s = .next (s.emit .undefinedOpcodeWarning) := by
  simp [warnUndefined, h]

/-- Otherwise nothing happens. -/
theorem warnUndefined_of_not_warned (h : ¬ (conditionPassed cond s.flags = true ∨ s.params.warnGated = false)) :
    warnUndefined cond s = .next s := by
  simp [warnUndefined, h]

end

/-- Settles O18: each of the eight is the warning, which is emitted or not. -/
theorem undefinedOpcodesComplete : Obligations.UndefinedOpcodesComplete := by
  intro cond imm rest s i hi
  have hexec : exec i s = warnUndefined cond s := by
    simp only [List.mem_cons, List.not_mem_nil, or_false] at hi
    obtain rfl | rfl | rfl | rfl | rfl | rfl | rfl | rfl := hi <;> rfl
  rw [hexec]
  by_cases h : conditionPassed cond s.flags = true ∨ s.params.warnGated = false
  · rw [warnUndefined_of_warned h, if_pos h]
    exact ⟨_, rfl, fun _ => rfl, rfl, sameBytes_of_mem rfl, rfl, rfl, rfl, rfl⟩
  · rw [warnUndefined_of_not_warned h, if_neg h]
    exact ⟨_, rfl, fun _ => rfl, rfl, sameBytes_of_mem rfl, rfl, rfl, rfl, rfl⟩

end Sys2Proof.Machine
end

section
/-! PROOFS for spec/70_reset_and_hazards.md: what the load of a list of pairs leaves in memory, and the boot from it
(R300, R301). -/

namespace Sys2Proof.Machine

/-- The last pair is stored into what the pairs before it leave. -/
theorem loadImage_concat (pairs : List (Word × Word)) (p : Word × Word) :
    loadImage (pairs ++ [p]) = memStore (loadImage pairs) p.1 4 p.2 := List.foldl_concat ..

/-- Later pairs leave a byte alone that none of them covers. -/
theorem memLookup_loadImage_append (pre post : List (Word × Word)) (c : Nat)
    (h : ∀ q ∈ post, ∀ j, j < 4 → c ≠ (q.1.toNat + j) % 2 ^ 32) :
    memLookup (loadImage (pre ++ post)) c = memLookup (loadImage pre) c := by
  induction post using List.reverseRecOn with
  | nil => rw [List.append_nil]
  | append_singleton qs q ih =>
    rw [← List.append_assoc, loadImage_concat, memLookup_memStore_of_ne _ _ _ _ _ (h q (by simp))]
    exact ih fun r hr => h r (List.mem_append_left _ hr)

/-- The bytes of a pair are in memory, but for those that a later pair covers. -/
theorem memLookup_loadImage_pair (pre post : List (Word × Word)) (a w : Word) (i : Nat) (hi : i < 4)
    (h : ∀ q ∈ post, ∀ j, j < 4 → (a.toNat + i) % 2 ^ 32 ≠ (q.1.toNat + j) % 2 ^ 32) :
    memLookup (loadImage (pre ++ (a, w) :: post)) ((a.toNat + i) % 2 ^ 32) = some (getBits w (8 * i) 8) := by
  rw [List.append_cons, memLookup_loadImage_append _ post _ h, loadImage_concat]
  exact memLookup_memStore_of_lt _ a 4 w i (by decide) hi

/-- Settles O50: the bytes of a pair, the entry that reset puts into register 15, the bytes of no pair, and the last
word, whose bytes no later pair covers. -/
theorem bootStoresPairs : Obligations.BootStoresPairs := by
  intro p pre post a w
  refine ⟨memLookup_loadImage_pair pre post a w, ?_, memLookup_loadImage_append [] pre, ?_⟩
  · exact (resetWith_reg ..).trans (if_pos rfl)
  · exact readWord_of_bytes _ a w fun i hi => memLookup_loadImage_pair pre [] a w i hi nofun

end Sys2Proof.Machine
end
